-- ==== Sys2Proof/Word.lean ====
section
/-! DEFINITION. The widths of 00_scope.md R11 and R12: a byte is `u8`, a field of the wire is `u16`, and a datagram,
name, mode or payload is a finite list of bytes. All integers are unsigned. -/

namespace Sys2Proof

/-- R11: a byte is `u8`. -/
abbrev Byte := BitVec 8

/-- R11: `u16`, the width of opcode, block, code and status values. -/
abbrev U16 := BitVec 16

/-- R12: a byte string, counted from 0 at the first byte on the wire. -/
abbrev Bytes := List Byte

end Sys2Proof
end

