-- ==== Sys2Proof/Config.lean ====
section
/-! DEFINITION. 00_scope.md R9 (fixed constants) and R10 (the parameters the model takes as arguments), and the free
values of the machine: what reset leaves in `BLOCK` and in the three byte stores (10_state.md R116). -/

namespace Sys2Proof

/-- R9 `PAYLOAD_MAX`: the longest payload of a Data unit. -/
abbrev payloadMax : Nat := 512

/-- R9 `HDR_LEN`: opcode and block of a Data unit. -/
abbrev hdrLen : Nat := 4

/-- R9 `DGRAM_MAX`: `HDR_LEN + PAYLOAD_MAX`. -/
abbrev dgramMax : Nat := 516

/-- R9 `ERR_TABLE_SIZE`: codes 0 to 7. -/
abbrev errTableSize : Nat := 8

/-- R9 `T_WAIT`, in time units the source does not name; no rule reads it (R617). -/
abbrev tWait : Nat := 5

/-- R9 `SERVER_PORT`: a property of the channel, not of the engine. -/
abbrev serverPort : Nat := 69

/-- R211: the longest datagram the channel delivers. -/
abbrev rxMax : Nat := 65535

/-- R10 `TIMER_REARM`: timing only, no rule of the model reads it. It decides whether ignored traffic can hold a download
wait for ever (R708 (c); Safety.lean's `hangOf`). -/
inductive TimerRearm
  | stateEntry
  | everyReceive
  deriving DecidableEq, Repr

/-- R10: the named parameters, with their defaults. `MAX_NAME` is bounded by `DGRAM_MAX - 9 = 507` in its type.
A field of State holds one, so every statement about all states is about all parameters (log 1, DESIGN CHOICE, safe). -/
structure Config where
  maxName      : Fin 508    := 507
  grantGuarded : Bool       := true
  timerRearm   : TimerRearm := .stateEntry
  deriving DecidableEq, Repr

/-- R201: the three byte stores. -/
inductive Space
  | rx
  | tx
  | name
  deriving DecidableEq, Repr

/-- R116: `BLOCK` is unspecified after reset, "a draw ... A model must leave it free, not pick 0". The `n`th reset draws
`freeBlock n`; nothing in Lean can evaluate it (log 2, DESIGN CHOICE, safe). -/
opaque Config.freeBlock : Nat → U16

/-- R116, 93 item 2: `NAME`, `RXBUF` and `TXBUF` have "unspecified contents (a draw)" after reset. The `n`th reset leaves
`freeByte n sp a` at offset `a` of store `sp`; nothing in Lean can evaluate it (log 3, DESIGN CHOICE, safe). -/
opaque Config.freeByte : Nat → Space → Nat → Byte

end Sys2Proof
end

