-- ==== Sys2Proof/Syntax.lean ====
section
/-! DEFINITION. The events and datagrams of 30_encoding.md as data: `Instr` has one constructor per row of
opcode_table.json. Beside it stand the results of the codec (00_scope.md R15), the abort reasons (60_exceptions.md R601),
the output events (R312), and what the environment can offer the engine (41_session.md R451). -/

namespace Sys2Proof

/-- R601: the abort reason codes 0 to 7, all of them named. -/
inductive Reason
  | none
  | inputBadOp
  | inputBadName
  | inputFileOpen
  | serverError
  | sequence
  | timeout
  | fileIo
  deriving DecidableEq, Repr

/-- R312: the outcome of `END`. -/
inductive SessionOutcome
  | success
  | failed
  deriving DecidableEq, Repr

/-- R312: the direction of `FOPEN`: `WRITE` for a download's output file, `READ` for an upload's source file. -/
inductive Dir
  | write
  | read
  deriving DecidableEq, Repr

/-- R15: the kinds of an encoder's failure. -/
inductive EncErr
  | badOp
  | embeddedNul
  | tooLong
  | payloadTooLong
  deriving DecidableEq, Repr

/-- R15: the decoder's typed view of a datagram; a Data view names its payload by offset and length (R438). -/
inductive PacketView
  | data (block : U16) (payloadOff payloadLen : Nat)
  | ack (block : U16)
  | error (code : U16)
  | unrecognized
  deriving DecidableEq, Repr

/-- R15, R436: what `decode_request` returns. -/
inductive RequestView
  | request (op : U16) (filename mode : Bytes)
  | malformed
  deriving DecidableEq, Repr

/-- R425: the eight entries of the error catalog, by their short names. -/
inductive CatalogEntry
  | undefined
  | fileNotFound
  | accessViolation
  | diskFull
  | illegalOperation
  | unknownTransferId
  | fileAlreadyExists
  | noSuchUser
  deriving DecidableEq, Repr

/-- R312: the output events. -/
inductive OutEvent
  | tx (b : Bytes)
  | fopen (dir : Dir) (name : Bytes)
  | fappend (p : Bytes)
  | fread (n : Nat)
  | fclose
  | endSession (outcome : SessionOutcome) (reason : Reason) (errcode : U16) (erridx : BitVec 3)
  | status (v : U16)
  | reject (tag : Byte)
  deriving DecidableEq, Repr

/-- The rows of opcode_table.json: the six datagram rows (R308), the eight input events and the reserved host tags
(R311), and the eight output events (R312). An `error` row keeps every byte after the code, since the message and its
terminator are not examined (R305); an `unrecognized` row keeps all its bytes; `fread` has no operand, since its `n` is
always 512 (R454; log 18). -/
inductive Instr
  | rrq (filename mode : Bytes)
  | wrq (filename mode : Bytes)
  | data (block : U16) (payload : Bytes)
  | ack (block : U16)
  | error (code : U16) (message : Bytes)
  | unrecognized (d : Bytes)
  | start (op : U16) (name : Bytes)
  | clear
  | readStatus (n : U16)
  | rx (d : Bytes)
  | timeout
  | fopenResp (ok : Bool)
  | fappendResp (ok : Bool)
  | freadResp (ok : Bool) (data : Bytes)
  | reservedHost (tag : Byte)
  | tx (b : Bytes)
  | fopen (dir : Dir) (name : Bytes)
  | fappend (p : Bytes)
  | fread
  | fclose
  | endSession (outcome : SessionOutcome) (reason : Reason) (errcode : U16) (erridx : BitVec 3)
  | status (v : U16)
  | reject (tag : Byte)
  deriving DecidableEq, Repr

/-- Where an event stands. The host, channel, guard and file ports are R451's and carry the tagged events of R311; `wire`
is the channel seen one level down, a datagram as its bytes alone (R301; log 7). `hostOut`, `channelOut` and `fileOut` are the
output sides of the host, channel and file ports, in R312's port column: an output event leaves there, and there an output
row of the opcode table runs as the `emit` of R14 (log 8). -/
inductive Port
  | host
  | channel
  | wire
  | guard
  | file
  | hostOut
  | channelOut
  | fileOut
  deriving DecidableEq, Repr

/-- What the environment can do to the engine: offer an event at a port (R451), or reset it (R701: "an input of its own,
outside the event set"; log 16). -/
inductive Offer
  | event (port : Port) (bytes : Bytes)
  | reset
  deriving DecidableEq, Repr

/-- Why the decoder reads no instruction from an offer's bytes: no sender the spec allows makes such an offer (log 9). -/
inductive DecodeError
  /-- no byte at all, so no tag -/
  | emptyFrame
  /-- R311: "no other tag can arrive on the other ports" -/
  | wrongPort (tag : Byte)
  /-- fewer bytes than the event's operands take -/
  | truncated (tag : Byte)
  /-- bytes after the last operand -/
  | trailingBytes (tag : Byte)
  /-- an operand byte with no meaning: an `ok`, a direction, an outcome, a reason or an index out of its range -/
  | badOperand (tag : Byte)
  /-- an operand outside the bound the spec gives it: a datagram over 65535 bytes (R211), a `TX` over 516 (R112),
  a `FAPPEND` over 512 (R312) -/
  | illFormed
  deriving DecidableEq, Repr

end Sys2Proof
end

