-- ==== Sys2Proof/Machine/Codec.lean ====
section
/-! DEFINITION. The packet codec, 40_codec.md R401 to R438: total functions of their operands that read and write no
register. Byte order is fixed here, once (20_memory.md R202). -/

namespace Sys2Proof.Machine

/-- R12: `be16(s, i) = s[i] * 256 + s[i+1]`, of the two bytes themselves. -/
def be16 (hi lo : Byte) : U16 := BitVec.ofNat 16 (hi.toNat * 256 + lo.toNat)

/-- R12: `put16(v) = [v[15:8], v[7:0]]`. -/
def put16 (v : U16) : Bytes := [v.extractLsb' 8 8, v.extractLsb' 0 8]

/-- R12: some byte is `0x00`. -/
def hasNul (s : Bytes) : Bool := s.contains 0x00

/-- R412: the fixed mode "octet", in ASCII (log 21). -/
def modeString : Bytes := [0x6F, 0x63, 0x74, 0x65, 0x74]

/-- R302: the bytes of a request with opcode `op`. -/
def requestBytes (op : U16) (filename mode : Bytes) : Bytes :=
  put16 op ++ filename ++ [0x00] ++ mode ++ [0x00]

/-- R303: the bytes of a Data datagram. -/
def dataBytes (block : U16) (payload : Bytes) : Bytes := [0x00, 0x03] ++ put16 block ++ payload

/-- R304: the bytes of an Ack. -/
def ackBytes (block : U16) : Bytes := [0x00, 0x04] ++ put16 block

/-- R305: the bytes of an Error whose bytes after the code are `tail`. -/
def errorBytes (code : U16) (tail : Bytes) : Bytes := [0x00, 0x05] ++ put16 code ++ tail

/-- R411: the op, then the NULs, then the length. `decodeRequest` recovers its operands (R437). -/
def encodeRequest (op : U16) (filename mode : Bytes) : Except EncErr Bytes :=
  if op ≠ 1 ∧ op ≠ 2 then .error .badOp
  else if hasNul filename || hasNul mode then .error .embeddedNul
  else if dgramMax < (requestBytes op filename mode).length then .error .tooLong
  else .ok (requestBytes op filename mode)

/-- R414. `decodeDatagram` gives back the block and the payload's place (R437). -/
def encodeData (block : U16) (payload : Bytes) : Except EncErr Bytes :=
  if payloadMax < payload.length then .error .payloadTooLong else .ok (dataBytes block payload)

/-- R415: no failure. `decodeDatagram` gives back the block (R437). -/
def encodeAck (block : U16) : Except EncErr Bytes := .ok (ackBytes block)

/-- R421: an extension for test benches; the FSM never sends an Error. -/
def encodeError (code : U16) (message : Bytes) : Except EncErr Bytes :=
  if hasNul message then .error .embeddedNul
  else if dgramMax < (errorBytes code (message ++ [0x00])).length then .error .tooLong
  else .ok (errorBytes code (message ++ [0x00]))

/-- R425: `if code < ERR_TABLE_SIZE then code[2:0] else 0`. -/
def erridx (code : U16) : BitVec 3 := if code.toNat < errTableSize then code.extractLsb' 0 3 else 0

/-- R425: the catalog entry an index names. -/
def catalogEntry (i : BitVec 3) : CatalogEntry :=
  if i = 1 then .fileNotFound
  else if i = 2 then .accessViolation
  else if i = 3 then .diskFull
  else if i = 4 then .illegalOperation
  else if i = 5 then .unknownTransferId
  else if i = 6 then .fileAlreadyExists
  else if i = 7 then .noSuchUser
  else .undefined

/-- R432: a Data datagram is 4 to 516 bytes long. `d` is the whole datagram, `rest` its bytes after the opcode. -/
def decodeData (d rest : Bytes) : PacketView :=
  if d.length < hdrLen ∨ dgramMax < d.length then .unrecognized
  else match rest with
    | b0 :: b1 :: _ => .data (be16 b0 b1) hdrLen (d.length - hdrLen)
    | _ => .unrecognized

/-- R433: an Ack is exactly 4 bytes long. -/
def decodeAck (rest : Bytes) : PacketView :=
  match rest with
  | [b0, b1] => .ack (be16 b0 b1)
  | _ => .unrecognized

/-- R434: an Error is at least 4 bytes long; only the code is read. -/
def decodeError (rest : Bytes) : PacketView :=
  match rest with
  | b0 :: b1 :: _ => .error (be16 b0 b1)
  | _ => .unrecognized

/-- R431, R308: the opcode first, then the length for that opcode. Total on every byte string. It inverts `encodeData` and
`encodeAck` (R437). -/
def decodeDatagram (d : Bytes) : PacketView :=
  match d with
  | o0 :: o1 :: rest =>
    if be16 o0 o1 = 3 then decodeData d rest
    else if be16 o0 o1 = 4 then decodeAck rest
    else if be16 o0 o1 = 5 then decodeError rest
    else .unrecognized
  | _ => .unrecognized

/-- The bytes before the first NUL and the bytes after it, if there is one. -/
def splitNul : Bytes → Option (Bytes × Bytes)
  | [] => none
  | b :: bs =>
    if b = 0x00 then some ([], bs)
    else match splitNul bs with
      | some (before, after) => some (b :: before, after)
      | none => none

/-- R436: the filename up to the first NUL, the mode up to the second, nothing after it. It inverts `encodeRequest` (R437). -/
def decodeRequest (d : Bytes) : RequestView :=
  if d.length < 4 then .malformed
  else match d with
    | o0 :: o1 :: rest =>
      if be16 o0 o1 ≠ 1 ∧ be16 o0 o1 ≠ 2 then .malformed
      else match splitNul rest with
        | none => .malformed
        | some (filename, afterName) =>
          match splitNul afterName with
          | some (mode, []) => .request (be16 o0 o1) filename mode
          | _ => .malformed
    | _ => .malformed

end Sys2Proof.Machine
end

