-- ==== Sys2Proof/WellFormed.lean ====
section
/-! DEFINITION. The bounds the spec gives an instruction's operands, as one decidable check. -/

namespace Sys2Proof

open Machine

/-- The operand bounds of each row: NUL-free request strings (R302), payloads of at most 512 bytes (R303, R312),
datagrams of at most 65535 bytes (R211, R311), datagrams that are no row above for `unrecognized` (R308), the tags left
to `RESERVED_HOST` (R311), and `TX` datagrams of at most 516 bytes (R112). -/
def Instr.wf : Instr → Bool
  | .rrq f m | .wrq f m => !hasNul f && !hasNul m && decide (f.length + m.length + 4 ≤ rxMax)
  | .data _ p => decide (p.length ≤ payloadMax)
  | .ack _ => true
  | .error _ t => decide (t.length + hdrLen ≤ rxMax)
  | .unrecognized d =>
    decide (d.length ≤ rxMax) && decide (decodeDatagram d = .unrecognized) && decide (decodeRequest d = .malformed)
  | .start _ _ => true
  | .clear => true
  | .readStatus _ => true
  | .rx d => decide (d.length ≤ rxMax)
  | .timeout => true
  | .fopenResp _ => true
  | .fappendResp _ => true
  | .freadResp _ _ => true
  | .reservedHost tag => decide (tag = 0x00) || decide (0x04 ≤ tag.toNat)
  | .tx b => decide (b.length ≤ dgramMax)
  | .fopen _ _ => true
  | .fappend p => decide (p.length ≤ payloadMax)
  | .fread => true
  | .fclose => true
  | .endSession _ _ _ _ => true
  | .status _ => true
  | .reject _ => true

end Sys2Proof
end

