-- ==== Sys2Proof/Decode.lean ====
section
/-! DEFINITION. From an offer's bytes to an instruction, total and rejecting by name, and back. The tags are R311's and
R312's; the datagram formats are R301 to R305. How an event's operands lie after its tag is the model's choice (log 9):
in the order of R311's and R312's argument columns, `u16` big-endian as everywhere (R202), `u1`, `u3`, directions and
outcomes one byte each, a byte string to the end of the frame. -/

namespace Sys2Proof

open Machine

/-- R601: the code of a reason. -/
def Reason.code : Reason → BitVec 3
  | .none => 0
  | .inputBadOp => 1
  | .inputBadName => 2
  | .inputFileOpen => 3
  | .serverError => 4
  | .sequence => 5
  | .timeout => 6
  | .fileIo => 7

/-- The reason of a byte, if it is one of the eight codes. -/
def reasonOfByte (b : Byte) : Option Reason :=
  if b = 0 then some .none
  else if b = 1 then some .inputBadOp
  else if b = 2 then some .inputBadName
  else if b = 3 then some .inputFileOpen
  else if b = 4 then some .serverError
  else if b = 5 then some .sequence
  else if b = 6 then some .timeout
  else if b = 7 then some .fileIo
  else none

/-- A `u3` in a byte: the five high bits are 0. -/
def u3OfByte (b : Byte) : Option (BitVec 3) := if b.toNat < 8 then some (b.setWidth 3) else none

/-- A `u1` in a byte. -/
def boolOfByte (b : Byte) : Option Bool :=
  if b = 0 then some false else if b = 1 then some true else none

def byteOfBool (ok : Bool) : Byte := if ok then 1 else 0

/-- `WRITE` is 0 and `READ` is 1, in the order of R312 (log 9). -/
def dirOfByte (b : Byte) : Option Dir :=
  if b = 0 then some .write else if b = 1 then some .read else none

def byteOfDir : Dir → Byte
  | .write => 0
  | .read => 1

/-- `SUCCESS` is 0 and `FAILED` is 1, in the order of R312 (log 9). -/
def outcomeOfByte (b : Byte) : Option SessionOutcome :=
  if b = 0 then some .success else if b = 1 then some .failed else none

def byteOfOutcome : SessionOutcome → Byte
  | .success => 0
  | .failed => 1

/-- An event with no operand. -/
def noOperand (tag : Byte) (i : Instr) : Bytes → Except DecodeError Instr
  | [] => .ok i
  | _ :: _ => .error (.trailingBytes tag)

/-- An event with one `u16` operand. -/
def oneU16 (tag : Byte) (mk : U16 → Instr) : Bytes → Except DecodeError Instr
  | [hi, lo] => .ok (mk (be16 hi lo))
  | _ :: _ :: _ :: _ => .error (.trailingBytes tag)
  | _ => .error (.truncated tag)

/-- An event whose one operand is a flag byte. -/
def oneFlag (tag : Byte) (mk : Bool → Instr) : Bytes → Except DecodeError Instr
  | [b] =>
    match boolOfByte b with
    | some ok => .ok (mk ok)
    | none => .error (.badOperand tag)
  | [] => .error (.truncated tag)
  | _ :: _ :: _ => .error (.trailingBytes tag)

/-- `START`: op, then the name to the end of the frame. -/
def parseStart : Bytes → Except DecodeError Instr
  | hi :: lo :: name => .ok (.start (be16 hi lo) name)
  | _ => .error (.truncated 0x01)

/-- `FREAD_RESP`: ok, then the data to the end of the frame. -/
def parseFreadResp : Bytes → Except DecodeError Instr
  | b :: data =>
    match boolOfByte b with
    | some ok => .ok (.freadResp ok data)
    | none => .error (.badOperand 0x32)
  | [] => .error (.truncated 0x32)

/-- `FOPEN`: the direction, then the name to the end of the frame. -/
def parseFopen : Bytes → Except DecodeError Instr
  | b :: name =>
    match dirOfByte b with
    | some dir => .ok (.fopen dir name)
    | none => .error (.badOperand 0x90)
  | [] => .error (.truncated 0x90)

/-- `END`: outcome, reason, errcode, erridx. -/
def parseEnd : Bytes → Except DecodeError Instr
  | [o, r, hi, lo, x] =>
    match outcomeOfByte o, reasonOfByte r, u3OfByte x with
    | some outcome, some reason, some index => .ok (.endSession outcome reason (be16 hi lo) index)
    | _, _, _ => .error (.badOperand 0xA0)
  | _ :: _ :: _ :: _ :: _ :: _ :: _ => .error (.trailingBytes 0xA0)
  | _ => .error (.truncated 0xA0)

/-- `REJECT`: the tag it answers. -/
def parseReject : Bytes → Except DecodeError Instr
  | [t] => .ok (.reject t)
  | [] => .error (.truncated 0xA2)
  | _ :: _ :: _ => .error (.trailingBytes 0xA2)

/-- R311, host port. A tag that is no command's is reserved, whatever follows it (log 10). -/
def parseHost (tag : Byte) (args : Bytes) : Except DecodeError Instr :=
  if tag = 0x01 then parseStart args
  else if tag = 0x02 then noOperand tag .clear args
  else if tag = 0x03 then oneU16 tag .readStatus args
  else .ok (.reservedHost tag)

/-- R311, channel port. -/
def parseChannel (tag : Byte) (args : Bytes) : Except DecodeError Instr :=
  if tag = 0x10 then .ok (.rx args) else .error (.wrongPort tag)

/-- R311, the Timeout Guard's port. -/
def parseGuard (tag : Byte) (args : Bytes) : Except DecodeError Instr :=
  if tag = 0x20 then noOperand tag .timeout args else .error (.wrongPort tag)

/-- R311, file port. -/
def parseFile (tag : Byte) (args : Bytes) : Except DecodeError Instr :=
  if tag = 0x30 then oneFlag tag .fopenResp args
  else if tag = 0x31 then oneFlag tag .fappendResp args
  else if tag = 0x32 then parseFreadResp args
  else .error (.wrongPort tag)

/-- R312, the engine's output to the channel. -/
def parseChannelOut (tag : Byte) (args : Bytes) : Except DecodeError Instr :=
  if tag = 0x80 then .ok (.tx args) else .error (.wrongPort tag)

/-- R312, the engine's output to the file port. -/
def parseFileOut (tag : Byte) (args : Bytes) : Except DecodeError Instr :=
  if tag = 0x90 then parseFopen args
  else if tag = 0x91 then .ok (.fappend args)
  else if tag = 0x92 then noOperand tag .fread args
  else if tag = 0x93 then noOperand tag .fclose args
  else .error (.wrongPort tag)

/-- R312, the engine's output to the host. -/
def parseHostOut (tag : Byte) (args : Bytes) : Except DecodeError Instr :=
  if tag = 0xA0 then parseEnd args
  else if tag = 0xA1 then oneU16 tag .status args
  else if tag = 0xA2 then parseReject args
  else .error (.wrongPort tag)

/-- The opcode-table row of a datagram's bytes. `decode_datagram` (R431) settles DATA, ACK and ERROR; a datagram it calls
Unrecognized is an RRQ or WRQ row when `decode_request` (R436) recovers a request, and an UNRECOGNIZED row otherwise. -/
def decodeWire (d : Bytes) : Instr :=
  match decodeDatagram d with
  | .data block off len => .data block ((d.drop off).take len)
  | .ack block => .ack block
  | .error code => .error code (d.drop hdrLen)
  | .unrecognized =>
    match decodeRequest d with
    | .request op filename mode => if op = 1 then .rrq filename mode else .wrq filename mode
    | .malformed => .unrecognized d

/-- The event a port's bytes carry, before the operand bounds are checked. -/
def parse : Port → Bytes → Except DecodeError Instr
  | .wire, d => .ok (decodeWire d)
  | _, [] => .error .emptyFrame
  | .host, tag :: args => parseHost tag args
  | .channel, tag :: args => parseChannel tag args
  | .guard, tag :: args => parseGuard tag args
  | .file, tag :: args => parseFile tag args
  | .channelOut, tag :: args => parseChannelOut tag args
  | .fileOut, tag :: args => parseFileOut tag args
  | .hostOut, tag :: args => parseHostOut tag args

/-- The decoder: total on any bytes at any port. -/
def decode (p : Port) (bytes : Bytes) : Except DecodeError Instr :=
  match parse p bytes with
  | .ok i => if i.wf then .ok i else .error .illFormed
  | .error e => .error e

/-- R312's tag column. -/
def OutEvent.tag : OutEvent → Byte
  | .tx _ => 0x80
  | .fopen _ _ => 0x90
  | .fappend _ => 0x91
  | .fread _ => 0x92
  | .fclose => 0x93
  | .endSession _ _ _ _ => 0xA0
  | .status _ => 0xA1
  | .reject _ => 0xA2

/-- R312's port column. -/
def OutEvent.port : OutEvent → Port
  | .tx _ => .channelOut
  | .fopen _ _ => .fileOut
  | .fappend _ => .fileOut
  | .fread _ => .fileOut
  | .fclose => .fileOut
  | .endSession _ _ _ _ => .hostOut
  | .status _ => .hostOut
  | .reject _ => .hostOut

/-- The port a row's event stands at. -/
def Instr.port : Instr → Port
  | .rrq _ _ => .wire
  | .wrq _ _ => .wire
  | .data _ _ => .wire
  | .ack _ => .wire
  | .error _ _ => .wire
  | .unrecognized _ => .wire
  | .start _ _ => .host
  | .clear => .host
  | .readStatus _ => .host
  | .rx _ => .channel
  | .timeout => .guard
  | .fopenResp _ => .file
  | .fappendResp _ => .file
  | .freadResp _ _ => .file
  | .reservedHost _ => .host
  | .tx _ => .channelOut
  | .fopen _ _ => .fileOut
  | .fappend _ => .fileOut
  | .fread => .fileOut
  | .fclose => .fileOut
  | .endSession _ _ _ _ => .hostOut
  | .status _ => .hostOut
  | .reject _ => .hostOut

/-- The encoder: the bytes of an instruction at its port, from R301 to R305 for datagrams and R311, R312 for events. -/
def encode : Instr → Bytes
  | .rrq f m => requestBytes 1 f m
  | .wrq f m => requestBytes 2 f m
  | .data block p => dataBytes block p
  | .ack block => ackBytes block
  | .error code t => errorBytes code t
  | .unrecognized d => d
  | .start op name => 0x01 :: (put16 op ++ name)
  | .clear => [0x02]
  | .readStatus n => 0x03 :: put16 n
  | .rx d => 0x10 :: d
  | .timeout => [0x20]
  | .fopenResp ok => [0x30, byteOfBool ok]
  | .fappendResp ok => [0x31, byteOfBool ok]
  | .freadResp ok data => 0x32 :: byteOfBool ok :: data
  | .reservedHost tag => [tag]
  | .tx b => 0x80 :: b
  | .fopen dir name => 0x90 :: byteOfDir dir :: name
  | .fappend p => 0x91 :: p
  | .fread => [0x92]
  | .fclose => [0x93]
  | .endSession o r code index =>
    0xA0 :: byteOfOutcome o :: r.code.setWidth 8 :: (put16 code ++ [index.setWidth 8])
  | .status v => 0xA1 :: put16 v
  | .reject tag => [0xA2, tag]

/-- The offer that carries an instruction. -/
def Instr.offer (i : Instr) : Offer := .event i.port (encode i)

/-- The port of an 8-bit row of the opcode table, by its tag (R311, R312). -/
def portOfTag (tag : Byte) : Port :=
  if tag = 0x10 then .channel
  else if tag = 0x20 then .guard
  else if tag = 0x30 ∨ tag = 0x31 ∨ tag = 0x32 then .file
  else if tag = 0x80 then .channelOut
  else if tag = 0x90 ∨ tag = 0x91 ∨ tag = 0x92 ∨ tag = 0x93 then .fileOut
  else if tag = 0xA0 ∨ tag = 0xA1 ∨ tag = 0xA2 then .hostOut
  else .host

/-- How many operand bytes an event's fixed operands take, all of them 0 in a table word (log 19). -/
def operandBytes (tag : Byte) : Nat :=
  if tag = 0x01 ∨ tag = 0x03 ∨ tag = 0xA1 then 2
  else if tag = 0x30 ∨ tag = 0x31 ∨ tag = 0x32 ∨ tag = 0x90 ∨ tag = 0xA2 then 1
  else if tag = 0xA0 then 5
  else 0

/-- The offer a word of the opcode table stands for, its operands zero. An 8-bit row is an event's tag; a 16-bit row is a
datagram's opcode, whose bytes lie most significant first (R202), and its four header bytes are laid out (R208; log 19). -/
def tableOffer (nbits w : Nat) : Offer :=
  if nbits ≤ 8 then
    .event (portOfTag (BitVec.ofNat 8 w))
      (BitVec.ofNat 8 w :: List.replicate (operandBytes (BitVec.ofNat 8 w)) 0x00)
  else
    .event .wire (put16 (BitVec.ofNat 16 w) ++ put16 (BitVec.ofNat 16 (w / 65536)))

/-- The instruction the decoder reads from a word of the opcode table. -/
def decodeTableWord (nbits w : Nat) : Option Instr :=
  match tableOffer nbits w with
  | .event p bytes => (decode p bytes).toOption
  | .reset => none

end Sys2Proof
end

