-- ==== Sys2Proof/Machine/State.lean ====
section
/-! DEFINITION. The state of the engine, 10_state.md R101 to R116, as plain data, with what the environment offers and what
the engine has emitted; and the reasons a step can stop. -/

namespace Sys2Proof.Machine

/-- R102: the FSM state. The reserved values 10 to 15 are kept, as "stuck: unreachable" (93 item 4; log 11). -/
inductive FsmState
  | idle
  | opening
  | dlAwaitFirst
  | dlAwaitNext
  | dlWriting
  | ulAwaitGrant
  | ulSending
  | ulAwaitAck
  | done
  | aborted
  | reserved (k : Fin 6)
  deriving DecidableEq, Repr

/-- What has been written to a byte store since reset: (offset, byte) pairs, offsets strictly rising. An offset that is not
listed still holds what reset left there, a free value that `State.byteAt` reads (R116; log 3). -/
abbrev Memory := List Host.Cell

/-- Why the machine stops. No fault is reachable from reset (Safety.lean's `EngineInv` rules them out), and each is safe: the
machine stops where the spec says the case does not arise. -/
inductive Fault
  /-- Raised by `FOPEN_RESP` and `FREAD_RESP` where an encoder fails: "never EncErr" (R458 with R413, R553). Safe (log 12). -/
  | encodeFailed (e : EncErr)
  /-- Raised by an access that leaves a store (R201): a `TX` over 516 bytes, a `NAMELEN` over `MAX_NAME`. Safe (log 12). -/
  | outOfStore (space : Space) (offset : Nat)
  deriving DecidableEq, Repr

/-- Why the machine has no meaning for what it is given. -/
inductive Refusal
  /-- An instruction without a meaning; no arm of `exec` raises it. Safe. -/
  | notModelled (mnemonic : String)
  /-- Raised by `step` for an offer whose bytes are no event a sender can make (R311; log 9, log 14). Safe. -/
  | undecodable (e : DecodeError)
  deriving DecidableEq, Repr

/-- R101's tuple, then the model's own fields: the parameters of R10 (`cfg`), what the environment offers (`offers`), the
output events emitted so far (`outputs`) and the number of the reset whose free values stand (`draws`). -/
structure State where
  /-- `STATE`, R102 -/
  fsm      : FsmState
  /-- `OP`, R104 -/
  op       : BitVec 2
  /-- `BLOCK`, R105 -/
  block    : U16
  /-- `LAST`, R106 -/
  last     : Bool
  /-- `FILE_OPEN`, R107 -/
  fileOpen : Bool
  /-- `REASON`, R108 -/
  reason   : Reason
  /-- `ERRCODE`, R109 -/
  errcode  : U16
  /-- `ERRIDX`, R109 -/
  erridx   : BitVec 3
  /-- `NAME`, R110 -/
  name     : Memory
  /-- `NAMELEN`, R110 -/
  namelen  : U16
  /-- `RXBUF`, R111 -/
  rxbuf    : Memory
  /-- `RXLEN`, R111 -/
  rxlen    : U16
  /-- `TXBUF`, R112 -/
  txbuf    : Memory
  /-- `TXLEN`, R112 -/
  txlen    : U16
  /-- the parameters, R10 (log 1) -/
  cfg      : Config
  /-- what the environment offers, in the order it does so (log 4) -/
  offers   : List Offer
  /-- the output events, oldest first (R14, R210; log 6) -/
  outputs  : List OutEvent
  /-- the number of the reset whose draws the unwritten bytes of the stores are, and `BLOCK` was (log 2, log 3) -/
  draws    : Nat
  deriving DecidableEq, Repr

/-- R116, with the default parameters of R10. `BLOCK` is a draw, and so is every byte of the three stores: they list
nothing, so `State.byteAt` reads `Config.freeByte 0` (log 2, log 3). -/
def State.reset : State where
  fsm      := .idle
  op       := 0
  block    := Config.freeBlock 0
  last     := false
  fileOpen := false
  reason   := .none
  errcode  := 0
  erridx   := 0
  name     := []
  namelen  := 0
  rxbuf    := []
  rxlen    := 0
  txbuf    := []
  txlen    := 0
  cfg      := { maxName := 507, grantGuarded := true, timerRearm := .stateEntry }
  offers   := []
  outputs  := []
  draws    := 0

end Sys2Proof.Machine
end

