-- ==== Sys2Proof/Machine/Flags.lean ====
section
/-! DEFINITION. The one-bit facts the rules compute: the FSM state's code and its classes (R102, R103), the final-unit test
(R106, R503), the `FLAGS` status register (R115). -/

namespace Sys2Proof.Machine

/-- R102: the `u4` encoding of `STATE`. -/
def FsmState.code : FsmState → BitVec 4
  | .idle => 0
  | .opening => 1
  | .dlAwaitFirst => 2
  | .dlAwaitNext => 3
  | .dlWriting => 4
  | .ulAwaitGrant => 5
  | .ulSending => 6
  | .ulAwaitAck => 7
  | .done => 8
  | .aborted => 9
  | .reserved k => BitVec.ofNat 4 (10 + k.val)

/-- R103: the guarded waits, `UL_AWAIT_GRANT` among them only when `GRANT_GUARDED`. -/
def guarded (cfg : Config) : FsmState → Bool
  | .dlAwaitFirst => true
  | .dlAwaitNext => true
  | .ulAwaitAck => true
  | .ulAwaitGrant => cfg.grantGuarded
  | .idle => false
  | .opening => false
  | .dlWriting => false
  | .ulSending => false
  | .done => false
  | .aborted => false
  | .reserved _ => false

/-- R103: the states that receive datagrams. -/
def receiving : FsmState → Bool
  | .dlAwaitFirst => true
  | .dlAwaitNext => true
  | .ulAwaitGrant => true
  | .ulAwaitAck => true
  | .idle => false
  | .opening => false
  | .dlWriting => false
  | .ulSending => false
  | .done => false
  | .aborted => false
  | .reserved _ => false

/-- R106, R503: a Data unit is final when its datagram is shorter than `DGRAM_MAX`. -/
def finalUnit (datagramLength : Nat) : Bool := decide (datagramLength < dgramMax)

/-- R553: an upload's unit is final when fewer than `PAYLOAD_MAX` bytes were read. -/
def finalRead (dataLength : Nat) : Bool := decide (dataLength < payloadMax)

/-- R115, register 6: bit 0 is `FILE_OPEN`, bit 1 is `LAST`, the rest read 0. -/
def flagsRegister (s : State) : U16 := (if s.fileOpen then 1 else 0) ||| (if s.last then 2 else 0)

end Sys2Proof.Machine
end

