-- ==== Sys2Proof/Machine/Events.lean ====
section
/-! DEFINITION. The dispatch table, 41_session.md R452: what each state does with each event. -/

namespace Sys2Proof.Machine

/-- What a state does with a host command: run its rule, reject it (R462), or have no step for it. -/
inductive HostAction
  | run
  | reject
  | noStep
  deriving DecidableEq, Repr

/-- Which rule a state runs for a datagram: R501, R551 or R555. -/
inductive RxAction
  | download
  | grant
  | ack
  | noStep
  deriving DecidableEq, Repr

/-- One line of R452's table, in its column order, and R462's column for reserved host tags. A column of an event that no
host command makes only says whether the event has a step. -/
structure DispatchRow where
  start        : HostAction
  clear        : HostAction
  readStatus   : HostAction
  rx           : RxAction
  timeout      : Bool
  fopenResp    : Bool
  fappendResp  : Bool
  freadResp    : Bool
  reservedHost : HostAction
  deriving DecidableEq, Repr

/-- R452, line by line. The reserved states have no enabled event at all (93 item 4; log 11). Where a line leaves a wait to
the environment alone, the engine can hang: Safety.lean's `hangOf` lists those waits (R708; log 23). -/
def dispatchRow (cfg : Config) (f : FsmState) : DispatchRow :=
  match f with
  | .idle         => ⟨.run,    .reject, .run,    .noStep,   false,         false, false, false, .reject⟩
  | .opening      => ⟨.reject, .reject, .run,    .noStep,   false,         true,  false, false, .reject⟩
  | .dlAwaitFirst => ⟨.reject, .reject, .run,    .download, guarded cfg f, false, false, false, .reject⟩
  | .dlAwaitNext  => ⟨.reject, .reject, .run,    .download, guarded cfg f, false, false, false, .reject⟩
  | .dlWriting    => ⟨.reject, .reject, .run,    .noStep,   false,         false, true,  false, .reject⟩
  | .ulAwaitGrant => ⟨.reject, .reject, .run,    .grant,    guarded cfg f, false, false, false, .reject⟩
  | .ulSending    => ⟨.reject, .reject, .run,    .noStep,   false,         false, false, true,  .reject⟩
  | .ulAwaitAck   => ⟨.reject, .reject, .run,    .ack,      guarded cfg f, false, false, false, .reject⟩
  | .done         => ⟨.run,    .run,    .run,    .noStep,   false,         false, false, false, .reject⟩
  | .aborted      => ⟨.run,    .run,    .run,    .noStep,   false,         false, false, false, .reject⟩
  | .reserved _   => ⟨.noStep, .noStep, .noStep, .noStep,   false,         false, false, false, .noStep⟩

/-- The line of the state the engine is in. -/
def State.row (s : State) : DispatchRow := dispatchRow s.cfg s.fsm

/-- R14, R452: whether an event has a step in a state. A datagram row is enabled where `RX` is; an output row is no event
of R452 and needs no enabling (log 8). -/
def enabled (cfg : Config) (f : FsmState) : Instr → Bool
  | .rrq _ _ => receiving f
  | .wrq _ _ => receiving f
  | .data _ _ => receiving f
  | .ack _ => receiving f
  | .error _ _ => receiving f
  | .unrecognized _ => receiving f
  | .rx _ => receiving f
  | .start _ _ => (dispatchRow cfg f).start != .noStep
  | .clear => (dispatchRow cfg f).clear != .noStep
  | .readStatus _ => (dispatchRow cfg f).readStatus != .noStep
  | .reservedHost _ => (dispatchRow cfg f).reservedHost != .noStep
  | .timeout => (dispatchRow cfg f).timeout
  | .fopenResp _ => (dispatchRow cfg f).fopenResp
  | .fappendResp _ => (dispatchRow cfg f).fappendResp
  | .freadResp _ _ => (dispatchRow cfg f).freadResp
  | .tx _ => true
  | .fopen _ _ => true
  | .fappend _ => true
  | .fread => true
  | .fclose => true
  | .endSession _ _ _ _ => true
  | .status _ => true
  | .reject _ => true

end Sys2Proof.Machine
end

