-- ==== Sys2Proof/Machine/Ops.lean ====
section
/-! DEFINITION. The named operations the meanings share: the byte stores (R201), `emit` (R14), consumption (R453), the abort
and success procedures (R611, R612) and what ends an ended session (R614), rejection (R462), and reset (R701). -/

namespace Sys2Proof.Machine

/-- One step's answer, in the model's own reasons. -/
abbrev Result := Host.Outcome State Fault Refusal

/-- Go on with a value, or stop with the fault. -/
def orFault {α : Type} (r : Except Fault α) (k : α → Result) : Result :=
  match r with
  | .ok a => k a
  | .error f => .fault f

/-! ### Byte stores -/

/-- The form every byte store keeps: offsets strictly rising. -/
abbrev Memory.wf (m : Memory) : Prop := (m.map Prod.fst).Pairwise (· < ·)

/-- Every listed offset lies below `size`. -/
abbrev Memory.within (m : Memory) (size : Nat) : Prop := ∀ c ∈ m, c.1 < size

/-- The byte at an offset, if one has been written since reset. -/
def Memory.readByte (m : Memory) (a : Nat) : Option Byte := m.lookup a

/-- `n` bytes from offset `a`, if all of them have been written. -/
def Memory.read (m : Memory) (a : Nat) : Nat → Option Bytes
  | 0 => some []
  | n + 1 =>
    match m.readByte a, Memory.read m (a + 1) n with
    | some b, some bs => some (b :: bs)
    | _, _ => none

/-- The cells of a byte string laid out from offset `a`. -/
def cellsFrom (a : Nat) : Bytes → Memory
  | [] => []
  | b :: bs => (a, b) :: cellsFrom (a + 1) bs

/-- Write a byte string from offset `a`: the cells below it and the cells above it stay. -/
def Memory.write (m : Memory) (a : Nat) (bs : Bytes) : Memory :=
  m.filter (fun c => decide (c.1 < a)) ++ cellsFrom a bs ++ m.filter (fun c => decide (a + bs.length ≤ c.1))

/-- R201: the size of a store. -/
def storeSize (cfg : Config) : Space → Nat
  | .rx => dgramMax
  | .tx => dgramMax
  | .name => cfg.maxName.val

/-- The store itself. -/
def State.store (s : State) : Space → Memory
  | .rx => s.rxbuf
  | .tx => s.txbuf
  | .name => s.name

/-- The byte a store holds at an offset: the one last written there, else the draw of the last reset (R116; log 3). -/
def State.byteAt (s : State) (sp : Space) (a : Nat) : Byte :=
  ((s.store sp).readByte a).getD (Config.freeByte s.draws sp a)

/-- The `n` bytes a store holds from offset `a`. -/
def State.bytesAt (s : State) (sp : Space) (a : Nat) : Nat → Bytes
  | 0 => []
  | n + 1 => s.byteAt sp a :: State.bytesAt s sp (a + 1) n

/-- R13 `MemRead(space, a, n)`. -/
def memRead (sp : Space) (a n : Nat) (s : State) : Except Fault Bytes :=
  if storeSize s.cfg sp < a + n then .error (.outOfStore sp (storeSize s.cfg sp)) else .ok (s.bytesAt sp a n)

/-- R458: `NAME[0..NAMELEN)`. -/
def readName (s : State) : Except Fault Bytes := memRead .name 0 s.namelen.toNat s

/-! ### Output -/

/-- R14: append an output event. -/
def emit (e : OutEvent) (s : State) : State := { s with outputs := s.outputs ++ [e] }

/-- R112: `emit TX(b)` first writes `TXBUF[0..len(b))` and `TXLEN`. -/
def putTx (b : Bytes) (s : State) : State :=
  emit (.tx b) { s with txbuf := s.txbuf.write 0 b, txlen := BitVec.ofNat 16 b.length }

/-- R112: no datagram the engine emits is longer than `TXBUF`. -/
def emitTx (b : Bytes) (s : State) : Except Fault State :=
  if dgramMax < b.length then .error (.outOfStore .tx dgramMax) else .ok (putTx b s)

/-- An encoder's datagram, emitted; an encoder's failure is a fault (log 12). -/
def emitEncoded (r : Except EncErr Bytes) (s : State) : Except Fault State :=
  match r with
  | .ok b => emitTx b s
  | .error e => .error (.encodeFailed e)

/-! ### Input -/

/-- R453, R111: the first 516 bytes go to `RXBUF`, the length to `RXLEN`, saturated. -/
def consume (d : Bytes) (s : State) : State :=
  { s with rxbuf := s.rxbuf.write 0 (d.take dgramMax), rxlen := BitVec.ofNat 16 (min d.length 0xFFFF) }

/-- R462: answer a host command that is not accepted; nothing else changes. -/
def rejectCommand (tag : Byte) (s : State) : State := emit (.reject tag) s

/-! ### Taking an exception, ending a session, and returning -/

/-- R611, R612: close the file if it is open. -/
def closeFile (s : State) : State :=
  if s.fileOpen then { emit .fclose s with fileOpen := false } else s

/-- R611: the abort procedure. `ERRCODE` and `ERRIDX` are the values after this step's earlier writes. -/
def abort (r : Reason) (s : State) : State :=
  emit (.endSession .failed r s.errcode s.erridx) { closeFile s with reason := r, fsm := .aborted }

/-- R502, R551, R556: an Error packet records its code and aborts with `SERVER_ERROR`. -/
def serverError (code : U16) (s : State) : State :=
  abort .serverError { s with errcode := code, erridx := erridx code }

/-- R612: the success procedure. -/
def finish (s : State) : State :=
  emit (.endSession .success .none 0 0) { closeFile s with reason := .none, fsm := .done }

/-- R460, R614: leave an ended session; the outcome registers stay, `REASON` among them (vector S18; log 13). -/
def returnToIdle (s : State) : State := { s with fsm := .idle }

/-! ### Reset -/

/-- R701, R702: every register to its value of R116, in any state, emitting nothing and closing nothing. `BLOCK` and the
contents of the stores are fresh draws. The parameters, what the environment offers and what was emitted are not registers
(log 16). A file response outstanding at reset has no step in `IDLE` (R702), but its offer stays, and a later session takes it
once its state enables that event (R452): a point R702 leaves open (log 24, DESIGN CHOICE). -/
def resetEngine (s : State) : State :=
  { State.reset with
      block := Config.freeBlock (s.draws + 1), cfg := s.cfg, offers := s.offers, outputs := s.outputs,
      draws := s.draws + 1 }

end Sys2Proof.Machine
end

