-- ==== Sys2Proof/Machine/Output.lean ====
section
/-! DEFINITION. The eight output rows of the opcode table, 30_encoding.md R312 and 41_session.md R454. Run as an instruction,
an output row is the `emit` of R14: the event leaves at its port (`OutEvent.port`), and nothing else changes but for `TX`, which first writes
`TXBUF` and `TXLEN` (R112; log 8). -/

namespace Sys2Proof.Machine

/-- TX(b): one whole datagram to the channel. -/
def execTx (b : Bytes) (s : State) : Result := orFault (emitTx b s) fun t => .next t

/-- FOPEN(dir, name): ask the file port to open a file. -/
def execFopen (dir : Dir) (name : Bytes) (s : State) : Result := .next (emit (.fopen dir name) s)

/-- FAPPEND(p): ask the file port to append. -/
def execFappend (p : Bytes) (s : State) : Result := .next (emit (.fappend p) s)

/-- FREAD(512): ask the file port for the next bytes; "`n` is always 512" (R454). -/
def execFread (s : State) : Result := .next (emit (.fread payloadMax) s)

/-- FCLOSE: close the open file; it has no response. -/
def execFclose (s : State) : Result := .next (emit .fclose s)

/-- END(outcome, reason, errcode, erridx): report the session's outcome to the host. -/
def execEndSession (outcome : SessionOutcome) (reason : Reason) (errcode : U16) (index : BitVec 3) (s : State) : Result :=
  .next (emit (.endSession outcome reason errcode index) s)

/-- STATUS(v): answer READ_STATUS. -/
def execStatus (v : U16) (s : State) : Result := .next (emit (.status v) s)

/-- REJECT(tag): answer a host command the state does not accept. -/
def execReject (tag : Byte) (s : State) : Result := .next (emit (.reject tag) s)

end Sys2Proof.Machine
end

