-- ==== Sys2Proof/Machine/Operands.lean ====
section
/-! DEFINITION. What an instruction's operands select: a status register (R115), the opened file's direction (R456), the
checks START makes (R457), and the bytes of a received datagram row. -/

namespace Sys2Proof.Machine

/-- R115: status register `n`, zero-extended to 16 bits; 10 to 65535 read 0. -/
def statusRegister (n : U16) (s : State) : U16 :=
  if n = 0 then s.fsm.code.setWidth 16
  else if n = 1 then s.op.setWidth 16
  else if n = 2 then s.block
  else if n = 3 then s.reason.code.setWidth 16
  else if n = 4 then s.errcode
  else if n = 5 then s.erridx.setWidth 16
  else if n = 6 then flagsRegister s
  else if n = 7 then s.rxlen
  else if n = 8 then s.txlen
  else if n = 9 then s.namelen
  else 0

/-- R456: `if op == 1 then WRITE else READ`. -/
def openDir (op : U16) : Dir := if op = 1 then .write else .read

/-- R457: the op first, then the NUL, then the length. `none` when all three pass. -/
def validate (cfg : Config) (op : U16) (name : Bytes) : Option Reason :=
  if op ≠ 1 ∧ op ≠ 2 then some .inputBadOp
  else if hasNul name then some .inputBadName
  else if cfg.maxName.val < name.length then some .inputBadName
  else none

/-- R104, R457: `OP` holds 1 or 2 for a legal op code and 0 for an illegal one. -/
def opRegister (op : U16) : BitVec 2 := if op = 1 then 1 else if op = 2 then 2 else 0

/-- The datagram an instruction delivers to the engine: RX's own, or a datagram row's bytes (log 7). -/
def datagramOf : Instr → Option Bytes
  | .rrq f m => some (requestBytes 1 f m)
  | .wrq f m => some (requestBytes 2 f m)
  | .data block p => some (dataBytes block p)
  | .ack block => some (ackBytes block)
  | .error code t => some (errorBytes code t)
  | .unrecognized d => some d
  | .rx d => some d
  | .start _ _ => none
  | .clear => none
  | .readStatus _ => none
  | .timeout => none
  | .fopenResp _ => none
  | .fappendResp _ => none
  | .freadResp _ _ => none
  | .reservedHost _ => none
  | .tx _ => none
  | .fopen _ _ => none
  | .fappend _ => none
  | .fread => none
  | .fclose => none
  | .endSession _ _ _ _ => none
  | .status _ => none
  | .reject _ => none

/-- Whether an instruction is an output row (R312), run as `emit`, and not an input of R452 (log 8). -/
def isOutput : Instr → Bool
  | .tx _ => true
  | .fopen _ _ => true
  | .fappend _ => true
  | .fread => true
  | .fclose => true
  | .endSession _ _ _ _ => true
  | .status _ => true
  | .reject _ => true
  | .rrq _ _ => false
  | .wrq _ _ => false
  | .data _ _ => false
  | .ack _ => false
  | .error _ _ => false
  | .unrecognized _ => false
  | .start _ _ => false
  | .clear => false
  | .readStatus _ => false
  | .rx _ => false
  | .timeout => false
  | .fopenResp _ => false
  | .fappendResp _ => false
  | .freadResp _ _ => false
  | .reservedHost _ => false

/-- R314: `GET name`. -/
def get (name : Bytes) : Instr := .start 1 name

/-- R314: `PUT name`. -/
def put (name : Bytes) : Instr := .start 2 name

end Sys2Proof.Machine
end

