-- ==== Sys2Proof/Machine/Download.lean ====
section
/-! DEFINITION. Download, 42_download.md R501 to R507: what a datagram does in the two download waits, and the answer of the
file port to an append. -/

namespace Sys2Proof.Machine

/-- R503: append the payload, latch whether the unit is final, wait for the file port. `s` is the state after `d` was
consumed. -/
def acceptData (d : Bytes) (off len : Nat) (s : State) : Result :=
  orFault (memRead .rx off len s) fun p =>
    .next (emit (.fappend p) { s with last := finalUnit d.length, fsm := .dlWriting })

/-- R501: Error aborts (R502), the expected Data is accepted (R503), any other datagram is consumed and ignored
(R504, R505). -/
def downloadReceive (d : Bytes) (s : State) : Result :=
  match decodeDatagram d with
  | .error code => .next (serverError code (consume d s))
  | .data block off len =>
    if block = s.block then acceptData d off len (consume d s) else .next (consume d s)
  | .ack _ => .next (consume d s)
  | .unrecognized => .next (consume d s)

/-- R506: acknowledge the block just appended, count it, and go on or finish. -/
def appended (s : State) : Result :=
  orFault (emitEncoded (encodeAck s.block) s) fun t =>
    if s.last then .next (finish { t with block := s.block + 1 })
    else .next { t with block := s.block + 1, fsm := .dlAwaitNext }

/-- FAPPEND_RESP, R506 and R507. -/
def execFappendResp (ok : Bool) (s : State) : Result :=
  match s.row.fappendResp with
  | true => if ok then appended s else .next (abort .fileIo s)
  | false => .next s

end Sys2Proof.Machine
end

