-- ==== Sys2Proof/Machine/Upload.lean ====
section
/-! DEFINITION. Upload, 43_upload.md R551 to R557: the grant, the answer of the file port to a read, and what a datagram
does while an Ack is awaited. -/

namespace Sys2Proof.Machine

/-- Ask the file port for the next bytes (R552, R555). -/
def requestBlock (s : State) : State := emit (.fread payloadMax) { s with fsm := .ulSending }

/-- R551, R552: an Error aborts, any other datagram is the grant. -/
def grantReceive (d : Bytes) (s : State) : Result :=
  match decodeDatagram d with
  | .error code => .next (serverError code (consume d s))
  | .data _ _ _ => .next (requestBlock (consume d s))
  | .ack _ => .next (requestBlock (consume d s))
  | .unrecognized => .next (requestBlock (consume d s))

/-- R555 to R557: the matching Ack goes on, an Error aborts with its code, anything else aborts with `SEQUENCE`. -/
def ackReceive (d : Bytes) (s : State) : Result :=
  match decodeDatagram d with
  | .ack block =>
    if block = s.block then .next (requestBlock { consume d s with block := s.block + 1 })
    else .next (abort .sequence (consume d s))
  | .error code => .next (serverError code (consume d s))
  | .data _ _ _ => .next (abort .sequence (consume d s))
  | .unrecognized => .next (abort .sequence (consume d s))

/-- R553: send the block; a short one ends the session, a full one waits for its Ack. -/
def sendBlock (data : Bytes) (s : State) : Result :=
  orFault (emitEncoded (encodeData s.block data) s) fun t =>
    if finalRead data.length then .next (finish t) else .next { t with fsm := .ulAwaitAck }

/-- FREAD_RESP, R553 and R554. -/
def execFreadResp (ok : Bool) (data : Bytes) (s : State) : Result :=
  match s.row.freadResp with
  | true => if !ok || decide (payloadMax < data.length) then .next (abort .fileIo s) else sendBlock data s
  | false => .next s

end Sys2Proof.Machine
end

