-- ==== Sys2Proof/Machine/Receive.lean ====
section
/-! DEFINITION. RX and the six datagram rows of the opcode table: a datagram arrives and the state's rule of R452 takes it.
A datagram row, run as an instruction, is the delivery of that datagram (log 7). -/

namespace Sys2Proof.Machine

/-- R452's RX column: which rule takes a datagram. Where RX has no step, the datagram stays in the channel and the engine does
not move (R14; log 5). -/
def receive (d : Bytes) (s : State) : Result :=
  match s.row.rx with
  | .download => downloadReceive d s
  | .grant => grantReceive d s
  | .ack => ackReceive d s
  | .noStep => .next s

/-- RX, R453. -/
def execRx (d : Bytes) (s : State) : Result := receive d s

/-- A read request arrives: legal on the wire, Unrecognized to a client (R309, R435). -/
def execRrq (filename mode : Bytes) (s : State) : Result := receive (requestBytes 1 filename mode) s

/-- A write request arrives: legal on the wire, Unrecognized to a client (R309, R435). -/
def execWrq (filename mode : Bytes) (s : State) : Result := receive (requestBytes 2 filename mode) s

/-- A Data datagram arrives (R432; R503, R504, R552, R557). -/
def execData (block : U16) (payload : Bytes) (s : State) : Result := receive (dataBytes block payload) s

/-- An Ack arrives (R433; R505, R552, R555, R557). -/
def execAck (block : U16) (s : State) : Result := receive (ackBytes block) s

/-- An Error arrives (R434; R502, R551, R556). -/
def execError (code : U16) (message : Bytes) (s : State) : Result := receive (errorBytes code message) s

/-- A datagram that is no other row arrives (R435; R505, R552, R557). -/
def execUnrecognized (d : Bytes) (s : State) : Result := receive d s

end Sys2Proof.Machine
end

