-- ==== Sys2Proof/Machine/Session.lean ====
section
/-! DEFINITION. Session control, 41_session.md R456 to R462: START, the file port's answer to an open, CLEAR, READ_STATUS and
the reserved host tags. -/

namespace Sys2Proof.Machine

/-- R456, first block of writes. -/
def clearSession (s : State) : State :=
  { s with
      op := 0, block := 1, last := false, reason := .none, errcode := 0, erridx := 0, namelen := 0 }

/-- R456 and R457: clear the session registers, check, then latch the name and ask the file port to open it. The writes before
a failed check stand (R611). -/
def startSession (op : U16) (name : Bytes) (s : State) : State :=
  let s1 := { clearSession s with op := opRegister op }
  match validate s.cfg op name with
  | some r => abort r s1
  | none =>
    emit (.fopen (openDir op) name)
      { s1 with name := s1.name.write 0 name, namelen := BitVec.ofNat 16 name.length, fsm := .opening }

/-- START, R456. -/
def execStart (op : U16) (name : Bytes) (s : State) : Result :=
  match s.row.start with
  | .run => .next (startSession op name s)
  | .reject => .next (rejectCommand 0x01 s)
  | .noStep => .next s

/-- R458, the file is open: encode the session's request, send it, and enter the first wait. -/
def sendRequest (s : State) : Result :=
  let s1 := { s with fileOpen := true }
  orFault (readName s1) fun name =>
    orFault (emitEncoded (encodeRequest (s1.op.setWidth 16) name modeString) s1) fun t =>
      .next { t with fsm := if s1.op = 1 then .dlAwaitFirst else .ulAwaitGrant }

/-- FOPEN_RESP, R458. -/
def execFopenResp (ok : Bool) (s : State) : Result :=
  match s.row.fopenResp with
  | true => if ok then sendRequest s else .next (abort .inputFileOpen s)
  | false => .next s

/-- CLEAR, R460. -/
def execClear (s : State) : Result :=
  match s.row.clear with
  | .run => .next (returnToIdle s)
  | .reject => .next (rejectCommand 0x02 s)
  | .noStep => .next s

/-- READ_STATUS, R461. R452 has no state that rejects it; the answer to a rejection is R462's. -/
def execReadStatus (n : U16) (s : State) : Result :=
  match s.row.readStatus with
  | .run => .next (emit (.status (statusRegister n s)) s)
  | .reject => .next (rejectCommand 0x03 s)
  | .noStep => .next s

/-- A reserved host tag, R462. No state gives it a rule of its own, so it is answered by REJECT wherever it has a step. -/
def execReservedHost (tag : Byte) (s : State) : Result :=
  match s.row.reservedHost with
  | .run => .next (rejectCommand tag s)
  | .reject => .next (rejectCommand tag s)
  | .noStep => .next s

end Sys2Proof.Machine
end

