-- ==== Sys2Proof/Machine/Timeout.lean ====
section
/-! DEFINITION. The Timeout Guard's event, 60_exceptions.md R603. -/

namespace Sys2Proof.Machine

/-- TIMEOUT, R603: enabled exactly in a guarded wait, where it aborts the session; nothing is retransmitted. -/
def execTimeout (s : State) : Result :=
  match s.row.timeout with
  | true => .next (abort .timeout s)
  | false => .next s

end Sys2Proof.Machine
end

