-- ==== Sys2Proof/Machine/Dispatch.lean ====
section
/-! DEFINITION. One arm per row of opcode_table.json, in the table's order. -/

namespace Sys2Proof.Machine

def exec (i : Instr) (s : State) : Host.Outcome State Fault Refusal :=
  match i with
  -- datagrams, R308
  | .rrq filename mode => Sys2Proof.Machine.execRrq filename mode s
  | .wrq filename mode => Sys2Proof.Machine.execWrq filename mode s
  | .data block payload => Sys2Proof.Machine.execData block payload s
  | .ack block => Sys2Proof.Machine.execAck block s
  | .error code message => Sys2Proof.Machine.execError code message s
  | .unrecognized d => Sys2Proof.Machine.execUnrecognized d s
  -- input events, R311
  | .start op name => Sys2Proof.Machine.execStart op name s
  | .clear => Sys2Proof.Machine.execClear s
  | .readStatus n => Sys2Proof.Machine.execReadStatus n s
  | .rx d => Sys2Proof.Machine.execRx d s
  | .timeout => Sys2Proof.Machine.execTimeout s
  | .fopenResp ok => Sys2Proof.Machine.execFopenResp ok s
  | .fappendResp ok => Sys2Proof.Machine.execFappendResp ok s
  | .freadResp ok data => Sys2Proof.Machine.execFreadResp ok data s
  | .reservedHost tag => Sys2Proof.Machine.execReservedHost tag s
  -- output events, R312
  | .tx b => Sys2Proof.Machine.execTx b s
  | .fopen dir name => Sys2Proof.Machine.execFopen dir name s
  | .fappend p => Sys2Proof.Machine.execFappend p s
  | .fread => Sys2Proof.Machine.execFread s
  | .fclose => Sys2Proof.Machine.execFclose s
  | .endSession outcome reason errcode index => Sys2Proof.Machine.execEndSession outcome reason errcode index s
  | .status v => Sys2Proof.Machine.execStatus v s
  | .reject tag => Sys2Proof.Machine.execReject tag s

end Sys2Proof.Machine
end

