-- ==== Sys2Proof/Machine/Fetch.lean ====
section
/-! DEFINITION. What the next step takes from the environment's offers: the first one that the state enables (R451, R452). An
offer that is not enabled stays where it is, with its sender (R14; log 4, log 5). -/

namespace Sys2Proof.Machine

/-- What a step finds among the offers. -/
inductive Fetched
  /-- no offer has a step -/
  | idle
  /-- a reset, and the offers left -/
  | reset (rest : List Offer)
  /-- bytes that are no event -/
  | undecodable (e : DecodeError)
  /-- an event the state enables, and the offers left -/
  | event (i : Instr) (rest : List Offer)
  deriving DecidableEq, Repr

/-- Keep an offer that was passed over in front of the offers left. -/
def Fetched.keep (o : Offer) : Fetched → Fetched
  | .idle => .idle
  | .reset rest => .reset (o :: rest)
  | .undecodable e => .undecodable e
  | .event i rest => .event i (o :: rest)

/-- The first offer with a step. -/
def fetch (cfg : Config) (f : FsmState) : List Offer → Fetched
  | [] => .idle
  | .reset :: rest => .reset rest
  | .event p bytes :: rest =>
    match decode p bytes with
    | .error e => .undecodable e
    | .ok i => if enabled cfg f i then .event i rest else (fetch cfg f rest).keep (.event p bytes)

end Sys2Proof.Machine
end

