-- ==== Sys2Proof/Machine/Step.lean ====
section
/-! DEFINITION. One step: one input event, run to completion (R3, R451). -/

namespace Sys2Proof.Machine

/-- R451: take the first enabled offer and run its rule. With none, the engine holds its state (R618). Reset is no event and
sets every register (R701). -/
def step (s : State) : Host.Outcome State Fault Refusal :=
  match fetch s.cfg s.fsm s.offers with
  | .idle => .next s
  | .reset rest => .next (resetEngine { s with offers := rest })
  | .undecodable e => .refused (.undecodable e)
  | .event i rest => exec i { s with offers := rest }

/-- The environment offers the event of one opcode-table word and nothing else (log 19). -/
def State.withFetchWord (s : State) (nbits w : Nat) : State := { s with offers := [tableOffer nbits w] }

end Sys2Proof.Machine
end

