-- ==== Sys2Proof/Safety.lean ====
section
/-! DEFINITION. What a safe run is: the invariant `EngineInv` that every step keeps, the answers a step may give, and the waits
in which the engine can hang (70_reset_and_hazards.md R708). The invariant's clauses are the spec's own derived statements
about reachable states (10_state.md R102 to R112, 41_session.md R456, 60_exceptions.md R611, R612), gathered so that
statements can take them as a premise. -/

namespace Sys2Proof.Machine

/-- R102: no reserved encoding. -/
def FsmState.legal : FsmState → Bool
  | .reserved _ => false
  | .idle | .opening | .dlAwaitFirst | .dlAwaitNext | .dlWriting => true
  | .ulAwaitGrant | .ulSending | .ulAwaitAck | .done | .aborted => true

/-- The download states of R102's direction column. -/
def FsmState.downloading : FsmState → Bool
  | .dlAwaitFirst | .dlAwaitNext | .dlWriting => true
  | .idle | .opening | .ulAwaitGrant | .ulSending | .ulAwaitAck | .done | .aborted | .reserved _ => false

/-- The upload states of R102's direction column. -/
def FsmState.uploading : FsmState → Bool
  | .ulAwaitGrant | .ulSending | .ulAwaitAck => true
  | .idle | .opening | .dlAwaitFirst | .dlAwaitNext | .dlWriting | .done | .aborted | .reserved _ => false

/-- The states in which a session runs: the file is being opened or is open. -/
def FsmState.running (f : FsmState) : Bool := f == .opening || f.downloading || f.uploading

/-- The states an end procedure leaves the engine in (R611, R612). -/
def FsmState.ended (f : FsmState) : Bool := f == .done || f == .aborted

/-- The states in which `LAST` may be set: it is latched on entering `DL_WRITING` (R503) and cleared only by START (R456). -/
def FsmState.mayHoldLast (f : FsmState) : Bool := f == .dlWriting || f == .done || f == .aborted || f == .idle

/-- What every reachable state satisfies. -/
structure EngineInv (s : State) : Prop where
  /-- R102: `STATE` never holds a reserved value. -/
  legal : s.fsm.legal = true
  /-- R104: 3 is never written to `OP`. -/
  opLegal : s.op ≠ 3
  /-- R458: a download session has `OP = 1`, an upload session `OP = 2`. -/
  opDownload : s.fsm.downloading = true → s.op = 1
  opUpload : s.fsm.uploading = true → s.op = 2
  opOpening : s.fsm = .opening → s.op = 1 ∨ s.op = 2
  /-- R107, R458, R611, R612: the file is open exactly while a transfer runs. -/
  fileOpen : s.fileOpen = (s.fsm.downloading || s.fsm.uploading)
  /-- R108: `REASON` is `NONE` while a session runs and after success, and is not `NONE` in `ABORTED`. In `IDLE` it is what CLEAR
  left (R460; log 13). -/
  reasonRunning : s.fsm.running = true ∨ s.fsm = .done → s.reason = .none
  reasonAborted : s.fsm = .aborted → s.reason ≠ .none
  /-- R109: `ERRIDX` is the index of `ERRCODE`. -/
  erridxOf : s.erridx = erridx s.errcode
  /-- R109: `ERRCODE` is written only on an abort with reason `SERVER_ERROR`. -/
  errcodeOnly : s.reason ≠ .serverError → s.errcode = 0
  /-- R106: `LAST` is set only in `DL_WRITING` and after it; an upload never has it set. -/
  lastOnly : s.last = true → s.fsm.mayHoldLast = true ∧ s.op ≠ 2
  /-- R110, R457: `NAME[0..NAMELEN)` has been written, holds no NUL and fits `MAX_NAME`. -/
  nameBound : s.namelen.toNat ≤ s.cfg.maxName.val
  nameWritten : ∃ n, s.name.read 0 s.namelen.toNat = some n ∧ hasNul n = false
  /-- R112: no datagram emitted is longer than `TXBUF`. -/
  txBound : s.txlen.toNat ≤ dgramMax
  /-- R201: the three stores keep their form and their sizes. -/
  rxStore : s.rxbuf.wf ∧ s.rxbuf.within dgramMax
  txStore : s.txbuf.wf ∧ s.txbuf.within dgramMax
  nameStore : s.name.wf ∧ s.name.within s.cfg.maxName.val

/-- R708: the hangs, waits that only the environment can end ("A model lists these as hangs"; 93 items 12 to 14; log 23). -/
inductive Hang
  /-- (a) the file port owes an answer, and no timeout guards it -/
  | filePort
  /-- (b) the grant is awaited unguarded: without a datagram nothing ends it -/
  | unguardedGrant
  /-- (c) every ignored datagram restarts the guard of a download wait, so endless ones keep `TIMEOUT` away -/
  | ignoredTraffic
  deriving DecidableEq, Repr

/-- R708: which hang a state can be caught in. A session is proved to end only under premises that exclude it (R617). -/
def hangOf (cfg : Config) : FsmState → Option Hang
  | .opening | .dlWriting | .ulSending => some .filePort
  | .ulAwaitGrant => if cfg.grantGuarded then none else some .unguardedGrant
  | .dlAwaitFirst | .dlAwaitNext => if cfg.timerRearm = .everyReceive then some .ignoredTraffic else none
  | .ulAwaitAck | .idle | .done | .aborted | .reserved _ => none

/-- A safe answer: a next state that keeps the invariant, or a refusal of an offer no sender can make. Never a fault. -/
def SafeAnswer : Result → Prop
  | .next s => EngineInv s
  | .fault _ => False
  | .refused r => ∃ e, r = .undecodable e

end Sys2Proof.Machine
end

