-- ==== Sys2Proof/Certificates/Slice0/Obligations.lean ====
section
/-! DEFINITION. The statements for the provers. Each formalises rules of spec/ named in its docstring; a result is stated as the
whole next state, so that what it does not name is unchanged. -/

namespace Sys2Proof.Slice0

open Machine

/-- The states in which START is accepted (R456). -/
def acceptsStart (f : FsmState) : Prop := f = .idle ∨ f = .done ∨ f = .aborted

/-- The two download waits (R501). -/
def downloadWait (f : FsmState) : Prop := f = .dlAwaitFirst ∨ f = .dlAwaitNext

/-- What an end procedure emits (R611, R612): FCLOSE if the file is open, then END. -/
def endOutputs (fileOpen : Bool) (e : OutEvent) : List OutEvent := (if fileOpen then [.fclose] else []) ++ [e]

/-- What holds of a session that still runs (R107, R109): no Error has been recorded, so an `END` other than `SERVER_ERROR`'s
reports 0 and 0. -/
def noErrorRecorded (s : State) : Prop := s.errcode = 0 ∧ s.erridx = 0

/-- The output events a step adds to `s`'s. -/
def added (s t : State) : List OutEvent := t.outputs.drop s.outputs.length

/-- An `END`, whatever it reports. -/
def isEnd : OutEvent → Bool
  | .endSession _ _ _ _ => true
  | .tx _ | .fopen _ _ | .fappend _ | .fread _ | .fclose | .status _ | .reject _ => false

/-- A datagram to the channel. -/
def isTx : OutEvent → Bool
  | .tx _ => true
  | .endSession _ _ _ _ | .fopen _ _ | .fappend _ | .fread _ | .fclose | .status _ | .reject _ => false

/-- A file request that the file port answers (R454). -/
def isFileRequest : OutEvent → Bool
  | .fopen _ _ | .fappend _ | .fread _ => true
  | .tx _ | .endSession _ _ _ _ | .fclose | .status _ | .reject _ => false

/-- `n` steps, each answering a next state, lead from `s` to `t`. -/
def stepsTo : Nat → State → State → Prop
  | 0, s, t => s = t
  | n + 1, s, t => ∃ u, step s = .next u ∧ stepsTo n u t

/-- A server's Data units from block `b` on, each followed by the file port's `ok` to its append (R508). -/
def downloadOffers : U16 → List Bytes → List Offer
  | _, [] => []
  | b, p :: ps => (Instr.data b p).offer :: (Instr.fappendResp true).offer :: downloadOffers (b + 1) ps

/-- What the engine emits for them: each payload appended, then acknowledged (R508). -/
def downloadOutputs : U16 → List Bytes → List OutEvent
  | _, [] => []
  | b, p :: ps => .fappend p :: .tx (ackBytes b) :: downloadOutputs (b + 1) ps

/-- The file port's full reads from block `b` on, each followed by the server's matching Ack (R558). -/
def uploadOffers : U16 → List Bytes → List Offer
  | _, [] => []
  | b, p :: ps => (Instr.freadResp true p).offer :: (Instr.ack b).offer :: uploadOffers (b + 1) ps

/-- What the engine emits for them: each Data unit, then the request for the next block (R558). -/
def uploadOutputs : U16 → List Bytes → List OutEvent
  | _, [] => []
  | b, p :: ps => .tx (dataBytes b p) :: .fread payloadMax :: uploadOutputs (b + 1) ps

end Sys2Proof.Slice0

open Sys2Proof Sys2Proof.Machine Sys2Proof.Slice0

/-! ### Reset and the step -/

/-- 10_state.md R116: the registers whose reset value the spec gives. BLOCK, NAME, RXBUF and TXBUF are draws and are not
stated. -/
def Obligations.ResetLeavesSpecValues : Prop :=
  State.reset.fsm = .idle ∧ State.reset.op = 0 ∧ State.reset.last = false ∧ State.reset.fileOpen = false ∧
  State.reset.reason = .none ∧ State.reset.errcode = 0 ∧ State.reset.erridx = 0 ∧ State.reset.namelen = 0 ∧
  State.reset.rxlen = 0 ∧ State.reset.txlen = 0

/-- 70_reset_and_hazards.md R701, R702: reset in any state sets every register with a reset value to it and emits nothing, so no
`FCLOSE` and no `END`. `BLOCK` and every byte of the three stores are that reset's draws (R116), free values of the model (log 2,
log 3). That the parameters, the outputs and the other offers stay is the model's choice (log 16, log 24). -/
def Obligations.ResetInputAbandonsSession : Prop :=
  ∀ (s : State) (rest : List Offer), s.offers = .reset :: rest →
    ∃ t, step s = .next t ∧ t.fsm = .idle ∧ t.op = 0 ∧ t.last = false ∧ t.fileOpen = false ∧ t.reason = .none ∧
      t.errcode = 0 ∧ t.erridx = 0 ∧ t.namelen = 0 ∧ t.rxlen = 0 ∧ t.txlen = 0 ∧
      t.block = Config.freeBlock t.draws ∧ (∀ sp a, t.byteAt sp a = Config.freeByte t.draws sp a) ∧
      t.outputs = s.outputs ∧ t.cfg = s.cfg ∧ t.offers = rest

/-- 41_session.md R451: the step takes the first offer with a step, whatever is passed over before it; it removes that offer
(20_memory.md R207 (a)) and runs the instruction its bytes decode to. The offers passed over stay, in order. -/
def Obligations.StepRunsFirstEnabledOffer : Prop :=
  ∀ (s : State) (before rest : List Offer) (p : Port) (bytes : Bytes) (i : Instr),
    s.offers = before ++ .event p bytes :: rest →
    (∀ o ∈ before, ∃ q c j, o = .event q c ∧ decode q c = .ok j ∧ enabled s.cfg s.fsm j = false) →
    decode p bytes = .ok i → enabled s.cfg s.fsm i = true →
    step s = exec i { s with offers := before ++ rest }

/-- The step runs the decoded instruction: an enabled event that is offered first, whose bytes decode to `i`. -/
def Obligations.StepRunsDecodedInstruction : Prop :=
  ∀ (s : State) (rest : List Offer) (p : Port) (bytes : Bytes) (i : Instr),
    s.offers = .event p bytes :: rest → decode p bytes = .ok i → enabled s.cfg s.fsm i = true →
    step s = exec i { s with offers := rest }

/-- A word of the opcode table, placed by `withFetchWord`, is what the next step runs, where its event is enabled; where it is
not, the step changes nothing. -/
def Obligations.StepRunsTableWord : Prop :=
  ∀ (s : State) (nbits w : Nat) (i : Instr), decodeTableWord nbits w = some i →
    (enabled s.cfg s.fsm i = true → step (s.withFetchWord nbits w) = exec i { s with offers := [] }) ∧
    (enabled s.cfg s.fsm i = false → step (s.withFetchWord nbits w) = .next (s.withFetchWord nbits w))

/-- 60_exceptions.md R618 with 00_scope.md R14: with no enabled offer the engine holds its state and every event stays with its
sender. -/
def Obligations.StepHoldsWithNothingEnabled : Prop :=
  ∀ s : State, (∀ o ∈ s.offers, ∃ p bytes i, o = .event p bytes ∧ decode p bytes = .ok i ∧ enabled s.cfg s.fsm i = false) →
    step s = .next s

/-- The model's choice (log 9): an offer whose bytes are no event is refused by name, before anything else happens. -/
def Obligations.UndecodableOfferIsRefused : Prop :=
  ∀ (s : State) (rest : List Offer) (p : Port) (bytes : Bytes) (e : DecodeError),
    s.offers = .event p bytes :: rest → decode p bytes = .error e → step s = .refused (.undecodable e)

/-- 00_scope.md R14: an event that is not enabled leaves the engine where it is. -/
def Obligations.DisabledEventDoesNotMove : Prop :=
  ∀ (i : Instr) (s : State), enabled s.cfg s.fsm i = false → exec i s = .next s

/-- 41_session.md R452 and 10_state.md R103: the states in which each event has a step, a reserved STATE having none. -/
def Obligations.EventsEnabledByState : Prop :=
  ∀ (cfg : Config) (f : FsmState),
    (∀ op name, enabled cfg f (.start op name) = true ↔ ∀ k, f ≠ .reserved k) ∧
    (enabled cfg f .clear = true ↔ ∀ k, f ≠ .reserved k) ∧
    (∀ n, enabled cfg f (.readStatus n) = true ↔ ∀ k, f ≠ .reserved k) ∧
    (∀ tag, enabled cfg f (.reservedHost tag) = true ↔ ∀ k, f ≠ .reserved k) ∧
    (∀ i d, datagramOf i = some d →
      (enabled cfg f i = true ↔ f = .dlAwaitFirst ∨ f = .dlAwaitNext ∨ f = .ulAwaitGrant ∨ f = .ulAwaitAck)) ∧
    (enabled cfg f .timeout = true ↔
      f = .dlAwaitFirst ∨ f = .dlAwaitNext ∨ f = .ulAwaitAck ∨ (f = .ulAwaitGrant ∧ cfg.grantGuarded = true)) ∧
    (∀ ok, enabled cfg f (.fopenResp ok) = true ↔ f = .opening) ∧
    (∀ ok, enabled cfg f (.fappendResp ok) = true ↔ f = .dlWriting) ∧
    (∀ ok data, enabled cfg f (.freadResp ok data) = true ↔ f = .ulSending)

/-! ### Session control -/

/-- 41_session.md R456, R457: START, where it is accepted, clears the session registers, then checks the op, then the NUL, then
the length. A bad op aborts with `OP` 0, a bad name with `OP` the op, a good one is latched and
opened. No file is open before it. -/
def Obligations.StartValidatesAndOpens : Prop :=
  ∀ (s : State) (op : U16) (name : Bytes), acceptsStart s.fsm →
    (op ≠ 1 ∧ op ≠ 2 →
      exec (.start op name) s = .next { s with
        fsm := .aborted, op := 0, block := 1, last := false, fileOpen := false, reason := .inputBadOp, errcode := 0,
        erridx := 0, namelen := 0,
        outputs := s.outputs ++ endOutputs s.fileOpen (.endSession .failed .inputBadOp 0 0) }) ∧
    ((op = 1 ∨ op = 2) ∧ (hasNul name = true ∨ s.cfg.maxName.val < name.length) →
      exec (.start op name) s = .next { s with
        fsm := .aborted, op := op.setWidth 2, block := 1, last := false, fileOpen := false, reason := .inputBadName,
        errcode := 0, erridx := 0, namelen := 0,
        outputs := s.outputs ++ endOutputs s.fileOpen (.endSession .failed .inputBadName 0 0) }) ∧
    ((op = 1 ∨ op = 2) ∧ hasNul name = false ∧ name.length ≤ s.cfg.maxName.val →
      exec (.start op name) s = .next { s with
        fsm := .opening, op := op.setWidth 2, block := 1, last := false, reason := .none, errcode := 0, erridx := 0,
        name := s.name.write 0 name, namelen := BitVec.ofNat 16 name.length,
        outputs := s.outputs ++ [.fopen (if op = 1 then .write else .read) name] }) ∧
    (EngineInv s → s.fileOpen = false)

/-- 10_state.md R110 with R456: after an accepted START that opens, `NAME[0..NAMELEN)` is the name passed in, every other byte of
`NAME` and every byte of the two buffers reads as before. -/
def Obligations.StartLatchesNameBytes : Prop :=
  ∀ (s t : State) (op : U16) (name : Bytes), exec (.start op name) s = .next t → t.fsm = .opening → acceptsStart s.fsm →
    t.namelen.toNat = name.length ∧ t.bytesAt .name 0 name.length = name ∧
    (∀ a, name.length ≤ a → t.byteAt .name a = s.byteAt .name a) ∧
    (∀ a, t.byteAt .rx a = s.byteAt .rx a) ∧ (∀ a, t.byteAt .tx a = s.byteAt .tx a)

/-- 41_session.md R462: the three rejected cases answer `REJECT(tag)` and write no state. -/
def Obligations.HostCommandsRejected : Prop :=
  ∀ s : State, (∀ k, s.fsm ≠ .reserved k) →
    (∀ op name, ¬ acceptsStart s.fsm →
      exec (.start op name) s = .next { s with outputs := s.outputs ++ [.reject 0x01] }) ∧
    (s.fsm ≠ .done ∧ s.fsm ≠ .aborted → exec .clear s = .next { s with outputs := s.outputs ++ [.reject 0x02] }) ∧
    (∀ tag, (Instr.reservedHost tag).wf = true →
      exec (.reservedHost tag) s = .next { s with outputs := s.outputs ++ [.reject tag] })

/-- 41_session.md R460: CLEAR returns from `DONE` and `ABORTED` to `IDLE` and writes `STATE` only; any other state rejects it. -/
def Obligations.ClearReturnsToIdle : Prop :=
  ∀ s : State, (∀ k, s.fsm ≠ .reserved k) →
    (s.fsm = .done ∨ s.fsm = .aborted → exec .clear s = .next { s with fsm := .idle }) ∧
    (s.fsm ≠ .done ∧ s.fsm ≠ .aborted → exec .clear s = .next { s with outputs := s.outputs ++ [.reject 0x02] })

/-- 41_session.md R461 with 10_state.md R115: READ_STATUS answers the register's value, zero-extended, and writes no state. -/
def Obligations.ReadStatusAnswersRegister : Prop :=
  ∀ (s : State) (n : U16), (∀ k, s.fsm ≠ .reserved k) →
    ∃ v : U16, exec (.readStatus n) s = .next { s with outputs := s.outputs ++ [.status v] } ∧
      (n.toNat = 0 → v.toNat = s.fsm.code.toNat) ∧ (n.toNat = 1 → v.toNat = s.op.toNat) ∧ (n.toNat = 2 → v = s.block) ∧
      (n.toNat = 3 → v.toNat = s.reason.code.toNat) ∧ (n.toNat = 4 → v = s.errcode) ∧
      (n.toNat = 5 → v.toNat = s.erridx.toNat) ∧
      (n.toNat = 6 → v.toNat = (if s.fileOpen then 1 else 0) + (if s.last then 2 else 0)) ∧
      (n.toNat = 7 → v = s.rxlen) ∧ (n.toNat = 8 → v = s.txlen) ∧ (n.toNat = 9 → v = s.namelen) ∧
      (10 ≤ n.toNat → v = 0)

/-- 10_state.md R102 and 60_exceptions.md R601: the codes of the named states and of the reasons. -/
def Obligations.StateAndReasonCodes : Prop :=
  [FsmState.idle, .opening, .dlAwaitFirst, .dlAwaitNext, .dlWriting, .ulAwaitGrant, .ulSending, .ulAwaitAck, .done,
    .aborted].map FsmState.code = [0, 1, 2, 3, 4, 5, 6, 7, 8, 9] ∧
  [Reason.none, .inputBadOp, .inputBadName, .inputFileOpen, .serverError, .sequence, .timeout, .fileIo].map Reason.code =
    [0, 1, 2, 3, 4, 5, 6, 7] ∧
  (∀ f g : FsmState, f.code = g.code → f = g)

/-- 41_session.md R458 with 40_codec.md R412: an open that succeeded sends the session's one request, whose bytes are
`put16(OP) ++ NAME[0..NAMELEN) ++ [0x00, "octet", 0x00]`, and enters the first wait of `OP`'s direction; one that failed aborts.
The premises on `OP` and `NAME` hold in every state with `EngineInv` (R413). -/
def Obligations.FileOpenAnswerSendsRequest : Prop :=
  ∀ s : State, s.fsm = .opening →
    (∀ name : Bytes, s.op = 1 ∨ s.op = 2 → s.namelen.toNat ≤ s.cfg.maxName.val →
      s.bytesAt .name 0 s.namelen.toNat = name → hasNul name = false →
      exec (.fopenResp true) s = .next { s with
        fsm := if s.op = 1 then .dlAwaitFirst else .ulAwaitGrant, fileOpen := true,
        txbuf := s.txbuf.write 0
          ([0x00, s.op.setWidth 8] ++ name ++ [0x00, 0x6F, 0x63, 0x74, 0x65, 0x74, 0x00]),
        txlen := BitVec.ofNat 16 (name.length + 9),
        outputs := s.outputs ++ [.tx ([0x00, s.op.setWidth 8] ++ name ++ [0x00, 0x6F, 0x63, 0x74, 0x65, 0x74, 0x00])] }) ∧
    exec (.fopenResp false) s = .next { s with
      fsm := .aborted, fileOpen := false, reason := .inputFileOpen,
      outputs := s.outputs ++ endOutputs s.fileOpen (.endSession .failed .inputFileOpen s.errcode s.erridx) } ∧
    (EngineInv s → s.fileOpen = false ∧ noErrorRecorded s)

/-! ### Datagrams -/

/-- 10_state.md R111 and 41_session.md R453: in a receiving state every datagram is consumed, whatever it is: its first 516 bytes
are in `RXBUF`, the bytes above them are the old ones, `RXLEN` is its length saturated, and no byte of the other stores changes
unless the step emits a datagram (none does). The instruction completes. -/
def Obligations.ReceptionConsumesDatagram : Prop :=
  ∀ (s : State) (i : Instr) (d : Bytes), datagramOf i = some d → receiving s.fsm = true →
    ∃ t, exec i s = .next t ∧ t.rxlen.toNat = min d.length 0xFFFF ∧
      (∀ a, a < min d.length 516 → some (t.byteAt .rx a) = d[a]?) ∧
      (∀ a, min d.length 516 ≤ a → t.byteAt .rx a = s.byteAt .rx a) ∧
      (∀ a, t.byteAt .tx a = s.byteAt .tx a) ∧ (∀ a, t.byteAt .name a = s.byteAt .name a) ∧
      t.txlen = s.txlen ∧ t.namelen = s.namelen ∧ t.op = s.op

/-- 40_codec.md R431 with 41_session.md R453: receiving bytes is executing the opcode-table row they decode to. -/
def Obligations.ReceptionExecutesDecodedRow : Prop :=
  ∀ (d : Bytes) (s : State), exec (.rx d) s = exec (decodeWire d) s

/-- 42_download.md R503: the expected Data unit is appended whole, `LAST` latches whether it is final, and the engine waits for
the file port. -/
def Obligations.DownloadAcceptsExpectedData : Prop :=
  ∀ (s : State) (p : Bytes), downloadWait s.fsm → p.length ≤ 512 →
    exec (.data s.block p) s = .next { s with
      fsm := .dlWriting, last := decide (p.length < 512),
      rxbuf := s.rxbuf.write 0 ([0x00, 0x03] ++ put16 s.block ++ p), rxlen := BitVec.ofNat 16 (4 + p.length),
      outputs := s.outputs ++ [.fappend p] }

/-- 42_download.md R504: a Data unit with another block number changes `RXBUF` and `RXLEN` only; no Ack, no output. -/
def Obligations.DownloadIgnoresMismatchedData : Prop :=
  ∀ (s : State) (block : U16) (p : Bytes), downloadWait s.fsm → p.length ≤ 512 → block ≠ s.block →
    exec (.data block p) s = .next { s with
      rxbuf := s.rxbuf.write 0 ([0x00, 0x03] ++ put16 block ++ p), rxlen := BitVec.ofNat 16 (4 + p.length) }

/-- 42_download.md R505: an Ack, a request, and every datagram that is no row of its own are ignored in a download wait. -/
def Obligations.DownloadIgnoresOtherDatagrams : Prop :=
  ∀ s : State, downloadWait s.fsm →
    (∀ block, exec (.ack block) s = .next { s with
      rxbuf := s.rxbuf.write 0 ([0x00, 0x04] ++ put16 block), rxlen := 4 }) ∧
    (∀ f m i, (i = .rrq f m ∨ i = .wrq f m) → exec i s = .next { s with
      rxbuf := s.rxbuf.write 0 ((encode i).take 516), rxlen := BitVec.ofNat 16 (min (encode i).length 0xFFFF) }) ∧
    (∀ d, (Instr.unrecognized d).wf = true → exec (.unrecognized d) s = .next { s with
      rxbuf := s.rxbuf.write 0 (d.take 516), rxlen := BitVec.ofNat 16 d.length })

/-- 42_download.md R502: an Error in a download wait records its code and its index, closes the file and aborts with
`SERVER_ERROR`. -/
def Obligations.DownloadErrorAborts : Prop :=
  ∀ (s : State) (code : U16) (m : Bytes), downloadWait s.fsm →
    exec (.error code m) s = .next { s with
      fsm := .aborted, reason := .serverError, errcode := code, erridx := erridx code, fileOpen := false,
      rxbuf := s.rxbuf.write 0 (([0x00, 0x05] ++ put16 code ++ m).take 516),
      rxlen := BitVec.ofNat 16 (min (4 + m.length) 0xFFFF),
      outputs := s.outputs ++ endOutputs s.fileOpen (.endSession .failed .serverError code (erridx code)) } ∧
    (EngineInv s → s.fileOpen = true)

/-- 42_download.md R506, R507: an append that succeeded acknowledges `BLOCK` before counting it, then finishes if the unit was
final; one that failed aborts with `FILE_IO` and sends no Ack. -/
def Obligations.AppendAnswerAcknowledges : Prop :=
  ∀ s : State, s.fsm = .dlWriting →
    (s.last = false → exec (.fappendResp true) s = .next { s with
      fsm := .dlAwaitNext, block := s.block + 1, txbuf := s.txbuf.write 0 ([0x00, 0x04] ++ put16 s.block), txlen := 4,
      outputs := s.outputs ++ [.tx ([0x00, 0x04] ++ put16 s.block)] }) ∧
    (s.last = true → exec (.fappendResp true) s = .next { s with
      fsm := .done, block := s.block + 1, reason := .none, fileOpen := false,
      txbuf := s.txbuf.write 0 ([0x00, 0x04] ++ put16 s.block), txlen := 4,
      outputs := s.outputs ++ [.tx ([0x00, 0x04] ++ put16 s.block)]
        ++ endOutputs s.fileOpen (.endSession .success .none 0 0) }) ∧
    exec (.fappendResp false) s = .next { s with
      fsm := .aborted, reason := .fileIo, fileOpen := false,
      outputs := s.outputs ++ endOutputs s.fileOpen (.endSession .failed .fileIo s.errcode s.erridx) } ∧
    (EngineInv s → s.fileOpen = true ∧ noErrorRecorded s)

/-- 43_upload.md R551, R552: in the grant wait an Error aborts with its code before any read; every other datagram, whatever its
kind or block, is the grant. -/
def Obligations.GrantWaitTakesAnyDatagram : Prop :=
  ∀ s : State, s.fsm = .ulAwaitGrant →
    (∀ code m, exec (.error code m) s = .next { s with
      fsm := .aborted, reason := .serverError, errcode := code, erridx := erridx code, fileOpen := false,
      rxbuf := s.rxbuf.write 0 (([0x00, 0x05] ++ put16 code ++ m).take 516),
      rxlen := BitVec.ofNat 16 (min (4 + m.length) 0xFFFF),
      outputs := s.outputs ++ endOutputs s.fileOpen (.endSession .failed .serverError code (erridx code)) }) ∧
    (∀ i d, i.wf = true → datagramOf i = some d → (∀ code, decodeDatagram d ≠ .error code) →
      exec i s = .next { s with
        fsm := .ulSending, rxbuf := s.rxbuf.write 0 (d.take 516), rxlen := BitVec.ofNat 16 d.length,
        outputs := s.outputs ++ [.fread 512] }) ∧
    (EngineInv s → s.fileOpen = true)

/-- 43_upload.md R553, R554: a read that succeeded sends one Data unit with `BLOCK`; a short one ends the session, a full one
waits for its Ack. A failed or oversized read aborts with `FILE_IO` and sends nothing. -/
def Obligations.ReadAnswerSendsBlock : Prop :=
  ∀ (s : State) (data : Bytes), s.fsm = .ulSending →
    (data.length = 512 → exec (.freadResp true data) s = .next { s with
      fsm := .ulAwaitAck, txbuf := s.txbuf.write 0 ([0x00, 0x03] ++ put16 s.block ++ data), txlen := 516,
      outputs := s.outputs ++ [.tx ([0x00, 0x03] ++ put16 s.block ++ data)] }) ∧
    (data.length < 512 → exec (.freadResp true data) s = .next { s with
      fsm := .done, reason := .none, fileOpen := false,
      txbuf := s.txbuf.write 0 ([0x00, 0x03] ++ put16 s.block ++ data), txlen := BitVec.ofNat 16 (4 + data.length),
      outputs := s.outputs ++ [.tx ([0x00, 0x03] ++ put16 s.block ++ data)]
        ++ endOutputs s.fileOpen (.endSession .success .none 0 0) }) ∧
    (∀ ok, ok = false ∨ 512 < data.length → exec (.freadResp ok data) s = .next { s with
      fsm := .aborted, reason := .fileIo, fileOpen := false,
      outputs := s.outputs ++ endOutputs s.fileOpen (.endSession .failed .fileIo s.errcode s.erridx) }) ∧
    (EngineInv s → s.fileOpen = true ∧ noErrorRecorded s)

/-- 43_upload.md R555: the matching Ack counts the block and asks for the next one. -/
def Obligations.MatchingAckContinues : Prop :=
  ∀ s : State, s.fsm = .ulAwaitAck →
    exec (.ack s.block) s = .next { s with
      fsm := .ulSending, block := s.block + 1, rxbuf := s.rxbuf.write 0 ([0x00, 0x04] ++ put16 s.block), rxlen := 4,
      outputs := s.outputs ++ [.fread 512] }

/-- 43_upload.md R556: an Error while an Ack is awaited aborts with its code. -/
def Obligations.AckWaitErrorAborts : Prop :=
  ∀ (s : State) (code : U16) (m : Bytes), s.fsm = .ulAwaitAck →
    exec (.error code m) s = .next { s with
      fsm := .aborted, reason := .serverError, errcode := code, erridx := erridx code, fileOpen := false,
      rxbuf := s.rxbuf.write 0 (([0x00, 0x05] ++ put16 code ++ m).take 516),
      rxlen := BitVec.ofNat 16 (min (4 + m.length) 0xFFFF),
      outputs := s.outputs ++ endOutputs s.fileOpen (.endSession .failed .serverError code (erridx code)) } ∧
    (EngineInv s → s.fileOpen = true)

/-- 43_upload.md R557: any other datagram while an Ack is awaited (another block's Ack, a Data unit, a request, anything
Unrecognized) aborts with `SEQUENCE`, `BLOCK` not counted and nothing sent. -/
def Obligations.AckWaitOtherAborts : Prop :=
  ∀ (s : State) (i : Instr) (d : Bytes), s.fsm = .ulAwaitAck → i.wf = true → datagramOf i = some d →
    decodeDatagram d ≠ .ack s.block → (∀ code, decodeDatagram d ≠ .error code) →
    exec i s = .next { s with
      fsm := .aborted, reason := .sequence, fileOpen := false,
      rxbuf := s.rxbuf.write 0 (d.take 516), rxlen := BitVec.ofNat 16 d.length,
      outputs := s.outputs ++ endOutputs s.fileOpen (.endSession .failed .sequence s.errcode s.erridx) } ∧
    (EngineInv s → s.fileOpen = true ∧ noErrorRecorded s)

/-- 60_exceptions.md R603, R611: TIMEOUT in a guarded wait closes the file and aborts with reason 6; nothing is sent again. In every
other state it has no step. -/
def Obligations.TimeoutAbortsGuardedWait : Prop :=
  ∀ s : State,
    ((downloadWait s.fsm ∨ s.fsm = .ulAwaitAck ∨ (s.fsm = .ulAwaitGrant ∧ s.cfg.grantGuarded = true)) →
      exec .timeout s = .next { s with
        fsm := .aborted, reason := .timeout, fileOpen := false,
        outputs := s.outputs ++ endOutputs s.fileOpen (.endSession .failed .timeout s.errcode s.erridx) } ∧
      (EngineInv s → s.fileOpen = true ∧ noErrorRecorded s)) ∧
    (¬ (downloadWait s.fsm ∨ s.fsm = .ulAwaitAck ∨ (s.fsm = .ulAwaitGrant ∧ s.cfg.grantGuarded = true)) →
      exec .timeout s = .next s)

/-! ### Output rows -/

/-- 00_scope.md R14 and 41_session.md R454: an output row other than `TX` appends its event and changes nothing else (`TX` also
writes `TXBUF` and `TXLEN`: `TxRowWritesTransmitBuffer`). 30_encoding.md R312, of `TX` too: the event leaves at its own port, host,
channel or file, and its encoding begins with its tag. The model's choices: that an output row runs as `emit` (log 8), and that a
`FAPPEND` over R312's 512 bytes, run past the decoder, is emitted as it stands (log 22). -/
def Obligations.OutputRowsAreEmitted : Prop :=
  ∀ s : State,
    (∀ dir name, exec (.fopen dir name) s = .next { s with outputs := s.outputs ++ [.fopen dir name] }) ∧
    (∀ p, exec (.fappend p) s = .next { s with outputs := s.outputs ++ [.fappend p] }) ∧
    exec .fread s = .next { s with outputs := s.outputs ++ [.fread 512] } ∧
    exec .fclose s = .next { s with outputs := s.outputs ++ [.fclose] } ∧
    (∀ o r c x, exec (.endSession o r c x) s = .next { s with outputs := s.outputs ++ [.endSession o r c x] }) ∧
    (∀ v, exec (.status v) s = .next { s with outputs := s.outputs ++ [.status v] }) ∧
    (∀ tag, exec (.reject tag) s = .next { s with outputs := s.outputs ++ [.reject tag] }) ∧
    (∀ i t, isOutput i = true → exec i s = .next t →
      ∃ e, t.outputs = s.outputs ++ [e] ∧ e.port = i.port ∧ (encode i).head? = some e.tag)

/-- 10_state.md R112: `TX(b)` writes `TXBUF[0..len(b))` and `TXLEN` and hands the channel the whole datagram; the bytes of `TXBUF`
above it, and every byte of the other stores, read as before. A datagram longer than `TXBUF` stops by name. -/
def Obligations.TxRowWritesTransmitBuffer : Prop :=
  ∀ (s : State) (b : Bytes),
    (b.length ≤ 516 → ∃ t, exec (.tx b) s = .next t ∧
      t = { s with txbuf := t.txbuf, txlen := BitVec.ofNat 16 b.length, outputs := s.outputs ++ [.tx b] } ∧
      (∀ a, a < b.length → some (t.byteAt .tx a) = b[a]?) ∧
      (∀ a, b.length ≤ a → t.byteAt .tx a = s.byteAt .tx a)) ∧
    (516 < b.length → exec (.tx b) s = .fault (.outOfStore .tx 516))

/-- 10_state.md R112, for every instruction: whatever emits a datagram has put it in `TXBUF` and its length in `TXLEN`, and a step
that emits none leaves every byte of `TXBUF` as it was. -/
def Obligations.TransmitBufferHoldsWhatWasSent : Prop :=
  ∀ (i : Instr) (s t : State), exec i s = .next t →
    (∀ b, .tx b ∈ added s t → b.length ≤ 516 ∧ t.txlen.toNat = b.length ∧ t.bytesAt .tx 0 b.length = b ∧
      ∀ a, b.length ≤ a → t.byteAt .tx a = s.byteAt .tx a) ∧
    ((∀ b, .tx b ∉ added s t) → t.txlen = s.txlen ∧ ∀ a, t.byteAt .tx a = s.byteAt .tx a)

/-! ### Whole-machine rules -/

/-- 20_memory.md R210: a step only adds to the outputs, after the earlier ones; it changes no parameter. -/
def Obligations.StepOnlyAppendsOutputs : Prop :=
  ∀ s t : State, step s = .next t → (∃ new, t.outputs = s.outputs ++ new) ∧ t.cfg = s.cfg

/-- 41_session.md R458, 42_download.md R506, 43_upload.md R553 with 20_memory.md R207: an input event sends at most one datagram, and
only three rules send one: the open's answer the session's request, the append's answer the Ack of `BLOCK`, the read's answer the
Data unit of `BLOCK`. Nothing is sent again. -/
def Obligations.OnlyRequestsAcksAndDataSent : Prop :=
  ∀ (i : Instr) (s t : State), isOutput i = false → exec i s = .next t →
    ((added s t).filter isTx).length ≤ 1 ∧
    ∀ b, .tx b ∈ added s t →
      (i = .fopenResp true ∧ s.fsm = .opening ∧
        b = requestBytes (s.op.setWidth 16) (s.bytesAt .name 0 s.namelen.toNat) modeString) ∨
      (i = .fappendResp true ∧ s.fsm = .dlWriting ∧ b = ackBytes s.block) ∨
      (∃ data, i = .freadResp true data ∧ s.fsm = .ulSending ∧ b = dataBytes s.block data)

/-- 10_state.md R104, R110: only START writes `OP`, `NAME` and `NAMELEN`, and it never writes 3 to `OP`. -/
def Obligations.OnlyStartWritesNameAndOp : Prop :=
  ∀ (i : Instr) (s t : State), exec i s = .next t →
    ((∀ op name, i ≠ .start op name) → t.op = s.op ∧ t.namelen = s.namelen ∧ ∀ a, t.byteAt .name a = s.byteAt .name a) ∧
    (∀ op name, i = .start op name → t.op = s.op ∨ (op = 1 ∧ t.op = 1) ∨ (op = 2 ∧ t.op = 2) ∨
      (op ≠ 1 ∧ op ≠ 2 ∧ t.op = 0))

/-- 42_download.md R510 and 10_state.md R105: `BLOCK` changes only by START's 1, and by one, modulo 2^16, at an append's `ok` or at
the matching Ack. -/
def Obligations.BlockCountsByOne : Prop :=
  ∀ (i : Instr) (s t : State), exec i s = .next t →
    t.block = s.block ∨
    ((∃ op name, i = .start op name) ∧ t.block = 1) ∨
    (i = .fappendResp true ∧ s.fsm = .dlWriting ∧ t.block = s.block + 1) ∨
    (datagramOf i = some (ackBytes s.block) ∧ s.fsm = .ulAwaitAck ∧ t.block = s.block + 1)

/-- 10_state.md R109: `ERRCODE` and `ERRIDX` are written only by START, which clears both, and by an abort with `SERVER_ERROR`,
which records the Error's code and its index. -/
def Obligations.ErrorCodeOnlyOnServerError : Prop :=
  ∀ (i : Instr) (s t : State), exec i s = .next t →
    (t.errcode = s.errcode ∧ t.erridx = s.erridx) ∨
    ((∃ op name, i = .start op name) ∧ t.errcode = 0 ∧ t.erridx = 0) ∨
    (∃ d code, datagramOf i = some d ∧ decodeDatagram d = .error code ∧ t.fsm = .aborted ∧ t.reason = .serverError ∧
      t.errcode = code ∧ t.erridx = erridx code)

/-- 10_state.md R106: `LAST` is written only by START, which clears it, and by the acceptance of a Data unit, which sets it to
whether the datagram is shorter than 516 bytes. -/
def Obligations.LastLatchedByAcceptance : Prop :=
  ∀ (i : Instr) (s t : State), exec i s = .next t →
    t.last = s.last ∨ ((∃ op name, i = .start op name) ∧ t.last = false) ∨
    (∃ d, datagramOf i = some d ∧ downloadWait s.fsm ∧ t.fsm = .dlWriting ∧ t.last = decide (d.length < 516))

/-- 10_state.md R107: no input event opens the file but an `FOPEN_RESP` with `ok`, and an input event emits `FCLOSE` exactly when it
closes the open file, once. -/
def Obligations.FileClosedExactlyOnce : Prop :=
  ∀ (i : Instr) (s t : State), isOutput i = false → exec i s = .next t →
    (s.fileOpen = false → t.fileOpen = true → i = .fopenResp true ∧ s.fsm = .opening) ∧
    (added s t).count .fclose = if s.fileOpen && !t.fileOpen then 1 else 0

/-- 41_session.md R463 and 60_exceptions.md R602: an input event emits at most one `END`, as the last output of its step, and
exactly when an end procedure enters `DONE` or `ABORTED`; from `DONE` or `ABORTED` only a START can lead to another. -/
def Obligations.EndReportedOnceAndLast : Prop :=
  ∀ (i : Instr) (s t : State), isOutput i = false → exec i s = .next t →
    (((added s t).filter isEnd).length ≤ 1) ∧
    (s.fsm.ended = false → (((added s t).filter isEnd).length = 1 ↔ t.fsm.ended = true)) ∧
    (∀ e ∈ added s t, isEnd e = true → t.fsm.ended = true ∧ (added s t).getLast? = some e) ∧
    (s.fsm.ended = true → (∃ e ∈ added s t, isEnd e = true) → ∃ op name, i = .start op name)

/-- 43_upload.md R559: while an Ack is awaited no input event sends anything; a Data unit sent from `UL_SENDING` is followed by
`UL_AWAIT_ACK` or, if final, by `DONE`. -/
def Obligations.UploadKeepsLockStep : Prop :=
  ∀ (i : Instr) (s t : State), isOutput i = false → exec i s = .next t →
    (s.fsm = .ulAwaitAck → ∀ e ∈ added s t, isTx e = false) ∧
    (s.fsm = .ulSending → (∃ e ∈ added s t, isTx e = true) → t.fsm = .ulAwaitAck ∨ t.fsm = .done)

/-- 20_memory.md R212, 41_session.md R454, in part: an input event emits at most one file request, the step that emits one enters
a state that waits for the file port, and a step from such a state emits none. -/
def Obligations.OneFileRequestOutstanding : Prop :=
  ∀ (i : Instr) (s t : State), isOutput i = false → exec i s = .next t →
    ((added s t).filter isFileRequest).length ≤ 1 ∧
    (∀ e ∈ added s t, isFileRequest e = true → t.fsm = .opening ∨ t.fsm = .dlWriting ∨ t.fsm = .ulSending) ∧
    (s.fsm = .opening ∨ s.fsm = .dlWriting ∨ s.fsm = .ulSending → ∀ e ∈ added s t, isFileRequest e = false)

/-- 93_implementation_defined.md item 4: a reserved `STATE` has no enabled event, the host's commands among them. -/
def Obligations.ReservedStateIsStuck : Prop :=
  ∀ (i : Instr) (s : State) (k : Fin 6), s.fsm = .reserved k → isOutput i = false → exec i s = .next s

/-- 93_implementation_defined.md items 2 and 3, 20_memory.md R215: no rule reads a byte of `RXBUF` that the datagram just consumed
did not write, nor any byte of `TXBUF`: with other old contents the engine does the same. And, where the invariant holds, no rule
reads a byte of any store before it is written: with the draws of another reset the engine does the same. -/
def Obligations.StaleBufferBytesUnread : Prop :=
  ∀ (i : Instr) (s t : State), exec i s = .next t →
    (∀ rx tx : Memory, ∃ u, exec i { s with rxbuf := rx, txbuf := tx } = .next u ∧
      u = { t with rxbuf := u.rxbuf, txbuf := u.txbuf }) ∧
    (EngineInv s → ∀ k, exec i { s with draws := k } = .next { t with draws := k })

/-- 10_state.md R116: START writes 1 to `BLOCK` before any rule uses it, so the draw of reset is never seen by a session. -/
def Obligations.StartForgetsBlockDraw : Prop :=
  ∀ (s : State) (op b : U16) (name : Bytes), acceptsStart s.fsm →
    exec (.start op name) { s with block := b } = exec (.start op name) s

/-! ### The invariant -/

/-- The invariant holds after reset. -/
def Obligations.InvariantHoldsAtReset : Prop := EngineInv State.reset

/-- Every step, reset included, keeps the invariant. -/
def Obligations.StepKeepsInvariant : Prop :=
  ∀ s t : State, EngineInv s → step s = .next t → EngineInv t

/-- Every well-formed instruction completes in every state with the invariant: no fault of the model is reachable
(R413, R553, R615). -/
def Obligations.WellFormedInstructionsComplete : Prop :=
  ∀ (i : Instr) (s : State), i.wf = true → EngineInv s → ∃ t, exec i s = .next t ∧ EngineInv t

/-- From a state with the invariant a step answers a next state with the invariant, or refuses an offer no sender can make; it
never faults. -/
def Obligations.StepAnswersSafely : Prop := ∀ s : State, EngineInv s → SafeAnswer (step s)

/-! ### Codec and encoding -/

/-- Decoding an encoded well-formed instruction, at its port, gives it back. -/
def Obligations.DecodeEncodeRoundTrip : Prop :=
  ∀ i : Instr, i.wf = true → decode i.port (encode i) = .ok i

/-- What decodes is well-formed, belongs to the port, and its encoding is the bytes read; only a reserved host command drops the
bytes after its tag (log 10, DEDUCED). At the wire port the bytes are laid out as 30_encoding.md R301 to R305 say. At every other
port the layout of an event's operands after its tag, and the refusal of other bytes for a flag, a direction or an outcome, are the
model's choice (log 9). -/
def Obligations.EncodeOfDecoded : Prop :=
  ∀ (p : Port) (bytes : Bytes) (i : Instr), decode p bytes = .ok i →
    i.wf = true ∧ i.port = p ∧ (encode i = bytes ∨ ∃ tag rest, i = .reservedHost tag ∧ bytes = tag :: rest)

/-- Every datagram the channel can deliver decodes to a well-formed row with these bytes: the codec's decoder is total
(R431, R309: no encoding traps). -/
def Obligations.EveryDatagramHasOneRow : Prop :=
  ∀ d : Bytes, d.length ≤ 65535 → ∃ i, decode .wire d = .ok i ∧ datagramOf i = some d

/-- Words written out from the spec's encodings decode to the instructions they stand for. -/
def Obligations.DecodedWordsOfEachFamily : Prop :=
  decode .wire [0x00, 0x01, 0x61, 0x2E, 0x74, 0x78, 0x74, 0x00, 0x6F, 0x63, 0x74, 0x65, 0x74, 0x00] =
    .ok (.rrq [0x61, 0x2E, 0x74, 0x78, 0x74] [0x6F, 0x63, 0x74, 0x65, 0x74]) ∧
  decode .wire [0x00, 0x03, 0x12, 0x34, 0x68] = .ok (.data 0x1234 [0x68]) ∧
  decode .wire [0x00, 0x04, 0xFF, 0xFE] = .ok (.ack 0xFFFE) ∧
  decode .wire [0x00, 0x05, 0x00, 0x08, 0x41, 0x00] = .ok (.error 8 [0x41, 0x00]) ∧
  decode .wire [0x03, 0x00, 0x00, 0x01] = .ok (.unrecognized [0x03, 0x00, 0x00, 0x01]) ∧
  decode .host [0x01, 0x00, 0x02, 0x66] = .ok (.start 2 [0x66]) ∧
  decode .host [0x07] = .ok (.reservedHost 0x07) ∧
  decode .channel [0x10, 0xFF] = .ok (.rx [0xFF]) ∧
  decode .guard [0x20] = .ok .timeout ∧
  decode .file [0x32, 0x01, 0x68, 0x69] = .ok (.freadResp true [0x68, 0x69]) ∧
  decode .channelOut [0x80, 0x00, 0x04, 0x00, 0x01] = .ok (.tx [0x00, 0x04, 0x00, 0x01]) ∧
  decode .fileOut [0x90, 0x01, 0x67] = .ok (.fopen .read [0x67]) ∧
  decode .hostOut [0xA0, 0x01, 0x06, 0x00, 0x00, 0x00] = .ok (.endSession .failed .timeout 0 0)

/-- 30_encoding.md R308: the nine rows of the decoder's verdicts, by opcode and length. -/
def Obligations.DecoderVerdictsByRow : Prop :=
  (∀ d : Bytes, d.length < 2 → decodeDatagram d = .unrecognized) ∧
  (∀ (o0 o1 : Byte) (rest : Bytes),
    let op := o0.toNat * 256 + o1.toNat
    let L := 2 + rest.length
    (∀ b0 b1 p, rest = b0 :: b1 :: p → op = 3 → L ≤ 516 →
      ∃ block, decodeDatagram (o0 :: o1 :: rest) = .data block 4 (L - 4) ∧ block.toNat = b0.toNat * 256 + b1.toNat) ∧
    (op = 3 → L < 4 ∨ 516 < L → decodeDatagram (o0 :: o1 :: rest) = .unrecognized) ∧
    (∀ b0 b1, rest = [b0, b1] → op = 4 →
      ∃ block, decodeDatagram (o0 :: o1 :: rest) = .ack block ∧ block.toNat = b0.toNat * 256 + b1.toNat) ∧
    (op = 4 → L ≠ 4 → decodeDatagram (o0 :: o1 :: rest) = .unrecognized) ∧
    (∀ b0 b1 m, rest = b0 :: b1 :: m → op = 5 →
      ∃ code, decodeDatagram (o0 :: o1 :: rest) = .error code ∧ code.toNat = b0.toNat * 256 + b1.toNat) ∧
    (op = 5 → L < 4 → decodeDatagram (o0 :: o1 :: rest) = .unrecognized) ∧
    (op ≠ 3 → op ≠ 4 → op ≠ 5 → decodeDatagram (o0 :: o1 :: rest) = .unrecognized))

/-- 40_codec.md R437: the round-trip law of the three encoders. -/
def Obligations.CodecRoundTripLaw : Prop :=
  (∀ (op : U16) (f m : Bytes), op = 1 ∨ op = 2 → hasNul f = false → hasNul m = false → f.length + m.length + 4 ≤ 516 →
    ∃ b, encodeRequest op f m = .ok b ∧ decodeRequest b = .request op f m) ∧
  (∀ (k : U16) (p : Bytes), p.length ≤ 512 → ∃ b, encodeData k p = .ok b ∧ decodeDatagram b = .data k 4 p.length) ∧
  (∀ k : U16, ∃ b, encodeAck k = .ok b ∧ decodeDatagram b = .ack k)

/-- 40_codec.md R436: `decode_request` recovers a request exactly from the datagrams that R302 lays out, of any length. -/
def Obligations.RequestDecoderAcceptsExactly : Prop :=
  ∀ (d : Bytes) (op : U16) (f m : Bytes),
    decodeRequest d = .request op f m ↔
      (op = 1 ∨ op = 2) ∧ hasNul f = false ∧ hasNul m = false ∧ d = put16 op ++ f ++ [0x00] ++ m ++ [0x00]

/-- 40_codec.md R411, R414, R415, R421: what the encoders give, which operands they refuse, and in which order the checks stand.
R434 with R421: an encoded Error decodes to its code. -/
def Obligations.EncodersAndTheirFailures : Prop :=
  (∀ (op : U16) (f m : Bytes), op = 1 ∨ op = 2 → hasNul f = false → hasNul m = false → f.length + m.length + 4 ≤ 516 →
    encodeRequest op f m = .ok (put16 op ++ f ++ [0x00] ++ m ++ [0x00])) ∧
  (∀ (k : U16) (p : Bytes), p.length ≤ 512 → encodeData k p = .ok ([0x00, 0x03] ++ put16 k ++ p)) ∧
  (∀ k : U16, encodeAck k = .ok ([0x00, 0x04] ++ put16 k)) ∧
  (∀ (op : U16) (f m : Bytes),
    (encodeRequest op f m = .error .badOp ↔ op ≠ 1 ∧ op ≠ 2) ∧
    (encodeRequest op f m = .error .embeddedNul ↔ (op = 1 ∨ op = 2) ∧ (hasNul f = true ∨ hasNul m = true)) ∧
    (encodeRequest op f m = .error .tooLong ↔
      (op = 1 ∨ op = 2) ∧ hasNul f = false ∧ hasNul m = false ∧ 516 < f.length + m.length + 4)) ∧
  (∀ (k : U16) (p : Bytes), encodeData k p = .error .payloadTooLong ↔ 512 < p.length) ∧
  (∀ (c : U16) (m : Bytes),
    (encodeError c m = .error .embeddedNul ↔ hasNul m = true) ∧
    (encodeError c m = .error .tooLong ↔ hasNul m = false ∧ 516 < m.length + 5) ∧
    (hasNul m = false → m.length + 5 ≤ 516 →
      encodeError c m = .ok ([0x00, 0x05] ++ put16 c ++ m ++ [0x00]) ∧
      decodeDatagram ([0x00, 0x05] ++ put16 c ++ m ++ [0x00]) = .error c))

/-- 40_codec.md R425: the index of a code is the code below 8 and 0, the catalog's "undefined", from 8 on. -/
def Obligations.ErrorIndexInTable : Prop :=
  (∀ code : U16, (code.toNat < 8 → (erridx code).toNat = code.toNat) ∧
    (8 ≤ code.toNat → erridx code = 0 ∧ catalogEntry (erridx code) = .undefined)) ∧
  [0, 1, 2, 3, 4, 5, 6, 7].map catalogEntry =
    [.undefined, .fileNotFound, .accessViolation, .diskFull, .illegalOperation, .unknownTransferId, .fileAlreadyExists,
      .noSuchUser]

/-! ### Whole sessions -/

/-- 42_download.md R508: from a download wait with the file open, a server that sends Data units from `BLOCK` on in order, each
once, all but the last of 512 bytes, with every append answered `ok`, is accepted unit by unit: each payload appended and
acknowledged in order, the session still running after every full unit and in `DONE` with `END SUCCESS` after the short one. The
units that carry `S` bytes are `floor(S / 512) + 1`, the last of `S mod 512` bytes. Fewer than 65536 units, as
93_implementation_defined.md item 15 asks. The model's choices: the events come as a list of offers in this order (log 4), each
Data unit at the wire port (log 7), each operand laid out as log 9 says. -/
def Obligations.DownloadInOrderCompletes : Prop :=
  ∀ (s : State) (full : List Bytes) (final : Bytes) (rest : List Offer),
    downloadWait s.fsm → s.fileOpen = true → (∀ p ∈ full, p.length = 512) → final.length < 512 → full.length + 1 < 65536 →
    s.offers = downloadOffers s.block (full ++ [final]) ++ rest →
    (∀ k, 0 < k → k ≤ full.length → ∃ u, stepsTo (2 * k) s u ∧ u.fsm = .dlAwaitNext ∧
      u.outputs = s.outputs ++ downloadOutputs s.block (full.take k)) ∧
    (∃ t, stepsTo (2 * (full.length + 1)) s t ∧ t.fsm = .done ∧ t.fileOpen = false ∧
      t.reason = .none ∧ t.block = s.block + BitVec.ofNat 16 (full.length + 1) ∧ t.offers = rest ∧
      t.outputs = s.outputs ++ downloadOutputs s.block (full ++ [final])
        ++ [.fclose, .endSession .success .none 0 0]) ∧
    full.length + 1 = (full ++ [final]).flatten.length / 512 + 1 ∧
    final.length = (full ++ [final]).flatten.length % 512

/-- 43_upload.md R558: from `UL_AWAIT_GRANT` with the file open, an Ack of any block as the grant (the only form of grant stated
here), `k` full reads each acknowledged in order and a last read of `r < 512` bytes send exactly `k + 1` Data units from `BLOCK`
on, the last of `r` bytes, and the session ends in `DONE` without waiting for the last Ack, `BLOCK` at the last unit's number.
Fewer than 65536 units, as 93_implementation_defined.md item 15 asks. The model's choices: the events come as a list of offers in
this order (log 4), each Ack at the wire port (log 7), each operand laid out as log 9 says. -/
def Obligations.UploadInOrderCompletes : Prop :=
  ∀ (s : State) (grant : U16) (full : List Bytes) (final : Bytes) (rest : List Offer),
    s.fsm = .ulAwaitGrant → s.fileOpen = true → (∀ p ∈ full, p.length = 512) → final.length < 512 →
    full.length + 1 < 65536 →
    s.offers = (Instr.ack grant).offer :: uploadOffers s.block full ++ (Instr.freadResp true final).offer :: rest →
    ∃ t, stepsTo (2 * full.length + 2) s t ∧ t.fsm = .done ∧ t.fileOpen = false ∧ t.reason = .none ∧
      t.block = s.block + BitVec.ofNat 16 full.length ∧ t.offers = rest ∧
      t.outputs = s.outputs ++ [.fread 512] ++ uploadOutputs s.block full
        ++ [.tx (dataBytes (s.block + BitVec.ofNat 16 full.length) final), .fclose, .endSession .success .none 0 0]
end

