-- ==== Sys2Proof/Laws/Codec.lean ====
section
/-! SUPPORT. The packet codec: byte order, what each format's bytes decode to, and what a verdict says of the bytes. -/

namespace Sys2Proof.Machine

theorem be16_put16 (v : U16) : be16 (v.extractLsb' 8 8) (v.extractLsb' 0 8) = v := by
  apply BitVec.eq_of_toNat_eq
  simp only [be16, BitVec.toNat_ofNat, BitVec.extractLsb'_toNat, Nat.shiftRight_eq_div_pow]
  have := v.isLt
  omega

theorem put16_be16 (hi lo : Byte) : put16 (be16 hi lo) = [hi, lo] := by
  have h1 := hi.isLt
  have h2 := lo.isLt
  have e1 : (be16 hi lo).extractLsb' 8 8 = hi := by
    apply BitVec.eq_of_toNat_eq
    simp only [be16, BitVec.toNat_ofNat, BitVec.extractLsb'_toNat, Nat.shiftRight_eq_div_pow]
    omega
  have e2 : (be16 hi lo).extractLsb' 0 8 = lo := by
    apply BitVec.eq_of_toNat_eq
    simp only [be16, BitVec.toNat_ofNat, BitVec.extractLsb'_toNat, Nat.shiftRight_eq_div_pow]
    omega
  simp [put16, e1, e2]

@[simp] theorem be16_data : be16 0#8 3#8 = 3#16 := by decide
@[simp] theorem be16_ack : be16 0#8 4#8 = 4#16 := by decide
@[simp] theorem be16_error : be16 0#8 5#8 = 5#16 := by decide

@[simp] theorem put16_length (v : U16) : (put16 v).length = 2 := rfl

theorem put16_cons (v : U16) : put16 v = [v.extractLsb' 8 8, v.extractLsb' 0 8] := rfl

theorem be16_inj {a b c d : Byte} (h : be16 a b = be16 c d) : a = c ∧ b = d := by
  have := congrArg put16 h
  simpa [put16_be16] using this

@[simp] theorem dataBytes_length (block : U16) (p : Bytes) : (dataBytes block p).length = 4 + p.length := by
  simp [dataBytes]; omega

@[simp] theorem ackBytes_length (block : U16) : (ackBytes block).length = 4 := rfl

@[simp] theorem errorBytes_length (code : U16) (t : Bytes) : (errorBytes code t).length = 4 + t.length := by
  simp [errorBytes]; omega

@[simp] theorem requestBytes_length (op : U16) (f m : Bytes) :
    (requestBytes op f m).length = f.length + m.length + 4 := by
  simp [requestBytes]; omega

/-- R303: the payload of a Data datagram's bytes starts at offset 4. -/
theorem dataBytes_drop (block : U16) (p : Bytes) : (dataBytes block p).drop 4 = p := by
  simp [dataBytes, put16]

theorem errorBytes_drop (code : U16) (t : Bytes) : (errorBytes code t).drop 4 = t := by
  simp [errorBytes, put16]

/-- R432: a Data datagram of at most 516 bytes decodes to its block and its payload's place. -/
theorem decodeDatagram_data (block : U16) {p : Bytes} (h : p.length ≤ payloadMax) :
    decodeDatagram (dataBytes block p) = .data block 4 p.length := by
  have hl : (dataBytes block p).length = 4 + p.length := dataBytes_length block p
  have h1 : ¬ ((dataBytes block p).length < hdrLen ∨ dgramMax < (dataBytes block p).length) := by
    rw [hl]; unfold hdrLen dgramMax; unfold payloadMax at h; omega
  have h2 : (dataBytes block p).length - hdrLen = p.length := by rw [hl]; unfold hdrLen; omega
  have e : dataBytes block p = 0x00 :: 0x03 :: (block.extractLsb' 8 8) :: (block.extractLsb' 0 8) :: p := rfl
  rw [show decodeDatagram (dataBytes block p) =
      decodeData (dataBytes block p) ((block.extractLsb' 8 8) :: (block.extractLsb' 0 8) :: p) by
    rw [e]; simp [decodeDatagram]]
  unfold decodeData
  rw [if_neg h1, h2]
  simp only [be16_put16]

/-- R432, R308 row 3: an oversized Data datagram is Unrecognized. -/
theorem decodeDatagram_data_long (block : U16) {p : Bytes} (h : payloadMax < p.length) :
    decodeDatagram (dataBytes block p) = .unrecognized := by
  have hl : (dataBytes block p).length = 4 + p.length := dataBytes_length block p
  have h1 : (dataBytes block p).length < hdrLen ∨ dgramMax < (dataBytes block p).length := by
    rw [hl]; unfold hdrLen dgramMax; unfold payloadMax at h; omega
  have e : dataBytes block p = 0x00 :: 0x03 :: (block.extractLsb' 8 8) :: (block.extractLsb' 0 8) :: p := rfl
  rw [show decodeDatagram (dataBytes block p) =
      decodeData (dataBytes block p) ((block.extractLsb' 8 8) :: (block.extractLsb' 0 8) :: p) by
    rw [e]; simp [decodeDatagram]]
  unfold decodeData
  rw [if_pos h1]

/-- R433. -/
theorem decodeDatagram_ack (block : U16) : decodeDatagram (ackBytes block) = .ack block := by
  have e : ackBytes block = [0x00, 0x04, block.extractLsb' 8 8, block.extractLsb' 0 8] := rfl
  rw [e]
  simp [decodeDatagram, decodeAck, be16_put16]

/-- R434: the bytes after the code are not examined. -/
theorem decodeDatagram_error (code : U16) (t : Bytes) : decodeDatagram (errorBytes code t) = .error code := by
  have e : errorBytes code t = 0x00 :: 0x05 :: (code.extractLsb' 8 8) :: (code.extractLsb' 0 8) :: t := rfl
  rw [e]
  simp [decodeDatagram, decodeError, be16_put16]

theorem requestBytes_cons (op : U16) (f m : Bytes) :
    requestBytes op f m = op.extractLsb' 8 8 :: op.extractLsb' 0 8 :: (f ++ 0x00 :: (m ++ [0x00])) := by
  simp [requestBytes, put16]

/-- R435: a received request is Unrecognized. -/
theorem decodeDatagram_request {op : U16} (h : op = 1 ∨ op = 2) (f m : Bytes) :
    decodeDatagram (requestBytes op f m) = .unrecognized := by
  rw [requestBytes_cons]
  simp only [decodeDatagram, be16_put16]
  rcases h with rfl | rfl <;> rfl

/-! ### What a verdict says of the bytes -/

theorem decodeDatagram_eq_data {d : Bytes} {block : U16} {off len : Nat} (h : decodeDatagram d = .data block off len) :
    ∃ p, d = dataBytes block p ∧ p.length ≤ payloadMax ∧ off = 4 ∧ len = p.length := by
  unfold decodeDatagram at h
  split at h
  · rename_i o0 o1 rest
    split at h
    · rename_i h3
      unfold decodeData at h
      split at h
      · cases h
      · rename_i hl
        split at h
        · rename_i b0 b1 p
          injection h with h1 h2 h4
          subst h1 h2 h4
          have e3 : be16 o0 o1 = be16 0x00 0x03 := by rw [h3]; decide
          obtain ⟨rfl, rfl⟩ := be16_inj e3
          refine ⟨p, ?_, ?_, rfl, ?_⟩
          · simp [dataBytes, put16_be16]
          · simp only [List.length_cons] at hl; unfold payloadMax; unfold dgramMax at hl; omega
          · simp [hdrLen]
        · cases h
    · split at h
      · unfold decodeAck at h; split at h <;> cases h
      · split at h
        · unfold decodeError at h; split at h <;> cases h
        · cases h
  · cases h

theorem decodeDatagram_eq_ack {d : Bytes} {block : U16} (h : decodeDatagram d = .ack block) : d = ackBytes block := by
  unfold decodeDatagram at h
  split at h
  · rename_i o0 o1 rest
    split at h
    · unfold decodeData at h
      split at h
      · cases h
      · split at h <;> cases h
    · split at h
      · rename_i h4
        unfold decodeAck at h
        split at h
        · rename_i b0 b1
          injection h with h1
          subst h1
          have e : be16 o0 o1 = be16 0x00 0x04 := by rw [h4]; decide
          obtain ⟨rfl, rfl⟩ := be16_inj e
          simp [ackBytes, put16_be16]
        · cases h
      · split at h
        · unfold decodeError at h; split at h <;> cases h
        · cases h
  · cases h

theorem decodeDatagram_eq_error {d : Bytes} {code : U16} (h : decodeDatagram d = .error code) :
    ∃ t, d = errorBytes code t := by
  unfold decodeDatagram at h
  split at h
  · rename_i o0 o1 rest
    split at h
    · unfold decodeData at h
      split at h
      · cases h
      · split at h <;> cases h
    · split at h
      · unfold decodeAck at h; split at h <;> cases h
      · split at h
        · rename_i h5
          unfold decodeError at h
          split at h
          · rename_i b0 b1 t
            injection h with h1
            subst h1
            have e : be16 o0 o1 = be16 0x00 0x05 := by rw [h5]; decide
            obtain ⟨rfl, rfl⟩ := be16_inj e
            exact ⟨t, by simp [errorBytes, put16_be16]⟩
          · cases h
        · cases h
  · cases h

/-! ### NUL-terminated strings -/

theorem hasNul_cons (b : Byte) (s : Bytes) : hasNul (b :: s) = (b == 0x00 || hasNul s) := by
  unfold hasNul
  rw [List.contains_cons, BEq.comm]

theorem splitNul_append {f : Bytes} (h : hasNul f = false) (rest : Bytes) :
    splitNul (f ++ 0x00 :: rest) = some (f, rest) := by
  induction f with
  | nil => simp [splitNul]
  | cons b f ih =>
    rw [hasNul_cons, Bool.or_eq_false_iff] at h
    have hb : b ≠ 0x00 := by simpa using h.1
    rw [List.cons_append, splitNul, if_neg hb, ih h.2]

theorem splitNul_eq_some {s f rest : Bytes} (h : splitNul s = some (f, rest)) :
    s = f ++ 0x00 :: rest ∧ hasNul f = false := by
  induction s generalizing f with
  | nil => cases h
  | cons b s ih =>
    rw [splitNul] at h
    split at h
    · rename_i hb
      cases h
      exact ⟨by simp [hb], rfl⟩
    · rename_i hb
      split at h
      · rename_i bf af hs
        cases h
        obtain ⟨h1, h2⟩ := ih hs
        refine ⟨by rw [h1]; rfl, ?_⟩
        rw [hasNul_cons, h2, Bool.or_false]
        simpa using hb
      · cases h

/-- R436: the bytes of a request decode to it. -/
theorem decodeRequest_request {op : U16} (hop : op = 1 ∨ op = 2) {f m : Bytes}
    (hf : hasNul f = false) (hm : hasNul m = false) :
    decodeRequest (requestBytes op f m) = .request op f m := by
  unfold decodeRequest
  have hl : ¬ (requestBytes op f m).length < 4 := by rw [requestBytes_length]; omega
  rw [if_neg hl]
  have h1 : ¬ (op ≠ 1 ∧ op ≠ 2) := by rcases hop with h | h <;> simp [h]
  simp only [requestBytes_cons, be16_put16]
  simp only [if_neg h1, splitNul_append hf, splitNul_append hm]

/-- R436: what the request decoder recovers is what the datagram says. -/
theorem decodeRequest_eq_request {d : Bytes} {op : U16} {f m : Bytes} (h : decodeRequest d = .request op f m) :
    d = requestBytes op f m ∧ (op = 1 ∨ op = 2) ∧ hasNul f = false ∧ hasNul m = false := by
  unfold decodeRequest at h
  split at h
  · cases h
  · split at h
    · rename_i o0 o1 rest _
      split at h
      · cases h
      · rename_i hop
        split at h
        · cases h
        · rename_i fn an hs1
          split at h
          · rename_i md hs2
            injection h with h1 h2 h3
            subst h1 h2 h3
            obtain ⟨e1, n1⟩ := splitNul_eq_some hs1
            obtain ⟨e2, n2⟩ := splitNul_eq_some hs2
            refine ⟨?_, ?_, n1, n2⟩
            · have := put16_be16 o0 o1
              simp [requestBytes, this, e1, e2]
            · by_contra hc
              exact hop ⟨fun e => hc (.inl e), fun e => hc (.inr e)⟩
          · cases h
    · cases h

/-! ### Encoders -/

theorem encodeAck_eq (block : U16) : encodeAck block = .ok (ackBytes block) := rfl

theorem encodeData_eq (block : U16) {p : Bytes} (h : p.length ≤ payloadMax) :
    encodeData block p = .ok (dataBytes block p) := by
  unfold encodeData; rw [if_neg (by omega)]

theorem modeString_noNul : hasNul modeString = false := by decide

theorem encodeRequest_eq {op : U16} (hop : op = 1 ∨ op = 2) {f m : Bytes} (hf : hasNul f = false)
    (hm : hasNul m = false) (hl : f.length + m.length + 4 ≤ dgramMax) :
    encodeRequest op f m = .ok (requestBytes op f m) := by
  unfold encodeRequest
  have h1 : ¬ (op ≠ 1 ∧ op ≠ 2) := by rcases hop with h | h <;> simp [h]
  rw [if_neg h1, hf, hm, requestBytes_length, if_neg (by simp), if_neg (by omega)]

end Sys2Proof.Machine
end

