-- ==== Sys2Proof/Laws/State.lean ====
section
/-! SUPPORT. What each shared operation does to each field of State, one lemma per field per update, so that no later proof
unfolds a record update. -/

namespace Sys2Proof.Machine

/-- What closing the file emits (R611, R612): FCLOSE exactly when it was open. -/
def fcloseWhen (fileOpen : Bool) : List OutEvent := if fileOpen then [.fclose] else []

@[simp] theorem fcloseWhen_true : fcloseWhen true = [.fclose] := rfl
@[simp] theorem fcloseWhen_false : fcloseWhen false = [] := rfl

@[simp] theorem emit_fsm (e : OutEvent) (s : State) : (emit e s).fsm = s.fsm := rfl
@[simp] theorem emit_op (e : OutEvent) (s : State) : (emit e s).op = s.op := rfl
@[simp] theorem emit_block (e : OutEvent) (s : State) : (emit e s).block = s.block := rfl
@[simp] theorem emit_last (e : OutEvent) (s : State) : (emit e s).last = s.last := rfl
@[simp] theorem emit_fileOpen (e : OutEvent) (s : State) : (emit e s).fileOpen = s.fileOpen := rfl
@[simp] theorem emit_reason (e : OutEvent) (s : State) : (emit e s).reason = s.reason := rfl
@[simp] theorem emit_errcode (e : OutEvent) (s : State) : (emit e s).errcode = s.errcode := rfl
@[simp] theorem emit_erridx (e : OutEvent) (s : State) : (emit e s).erridx = s.erridx := rfl
@[simp] theorem emit_name (e : OutEvent) (s : State) : (emit e s).name = s.name := rfl
@[simp] theorem emit_namelen (e : OutEvent) (s : State) : (emit e s).namelen = s.namelen := rfl
@[simp] theorem emit_rxbuf (e : OutEvent) (s : State) : (emit e s).rxbuf = s.rxbuf := rfl
@[simp] theorem emit_rxlen (e : OutEvent) (s : State) : (emit e s).rxlen = s.rxlen := rfl
@[simp] theorem emit_txbuf (e : OutEvent) (s : State) : (emit e s).txbuf = s.txbuf := rfl
@[simp] theorem emit_txlen (e : OutEvent) (s : State) : (emit e s).txlen = s.txlen := rfl
@[simp] theorem emit_cfg (e : OutEvent) (s : State) : (emit e s).cfg = s.cfg := rfl
@[simp] theorem emit_offers (e : OutEvent) (s : State) : (emit e s).offers = s.offers := rfl
@[simp] theorem emit_outputs (e : OutEvent) (s : State) : (emit e s).outputs = s.outputs ++ [e] := rfl
@[simp] theorem emit_draws (e : OutEvent) (s : State) : (emit e s).draws = s.draws := rfl

@[simp] theorem putTx_fsm (b : Bytes) (s : State) : (putTx b s).fsm = s.fsm := rfl
@[simp] theorem putTx_op (b : Bytes) (s : State) : (putTx b s).op = s.op := rfl
@[simp] theorem putTx_block (b : Bytes) (s : State) : (putTx b s).block = s.block := rfl
@[simp] theorem putTx_last (b : Bytes) (s : State) : (putTx b s).last = s.last := rfl
@[simp] theorem putTx_fileOpen (b : Bytes) (s : State) : (putTx b s).fileOpen = s.fileOpen := rfl
@[simp] theorem putTx_reason (b : Bytes) (s : State) : (putTx b s).reason = s.reason := rfl
@[simp] theorem putTx_errcode (b : Bytes) (s : State) : (putTx b s).errcode = s.errcode := rfl
@[simp] theorem putTx_erridx (b : Bytes) (s : State) : (putTx b s).erridx = s.erridx := rfl
@[simp] theorem putTx_name (b : Bytes) (s : State) : (putTx b s).name = s.name := rfl
@[simp] theorem putTx_namelen (b : Bytes) (s : State) : (putTx b s).namelen = s.namelen := rfl
@[simp] theorem putTx_rxbuf (b : Bytes) (s : State) : (putTx b s).rxbuf = s.rxbuf := rfl
@[simp] theorem putTx_rxlen (b : Bytes) (s : State) : (putTx b s).rxlen = s.rxlen := rfl
@[simp] theorem putTx_txbuf (b : Bytes) (s : State) : (putTx b s).txbuf = s.txbuf.write 0 b := rfl
@[simp] theorem putTx_txlen (b : Bytes) (s : State) : (putTx b s).txlen = BitVec.ofNat 16 b.length := rfl
@[simp] theorem putTx_cfg (b : Bytes) (s : State) : (putTx b s).cfg = s.cfg := rfl
@[simp] theorem putTx_offers (b : Bytes) (s : State) : (putTx b s).offers = s.offers := rfl
@[simp] theorem putTx_outputs (b : Bytes) (s : State) : (putTx b s).outputs = s.outputs ++ [.tx b] := rfl
@[simp] theorem putTx_draws (b : Bytes) (s : State) : (putTx b s).draws = s.draws := rfl

@[simp] theorem consume_fsm (d : Bytes) (s : State) : (consume d s).fsm = s.fsm := rfl
@[simp] theorem consume_op (d : Bytes) (s : State) : (consume d s).op = s.op := rfl
@[simp] theorem consume_block (d : Bytes) (s : State) : (consume d s).block = s.block := rfl
@[simp] theorem consume_last (d : Bytes) (s : State) : (consume d s).last = s.last := rfl
@[simp] theorem consume_fileOpen (d : Bytes) (s : State) : (consume d s).fileOpen = s.fileOpen := rfl
@[simp] theorem consume_reason (d : Bytes) (s : State) : (consume d s).reason = s.reason := rfl
@[simp] theorem consume_errcode (d : Bytes) (s : State) : (consume d s).errcode = s.errcode := rfl
@[simp] theorem consume_erridx (d : Bytes) (s : State) : (consume d s).erridx = s.erridx := rfl
@[simp] theorem consume_name (d : Bytes) (s : State) : (consume d s).name = s.name := rfl
@[simp] theorem consume_namelen (d : Bytes) (s : State) : (consume d s).namelen = s.namelen := rfl
@[simp] theorem consume_rxbuf (d : Bytes) (s : State) : (consume d s).rxbuf = s.rxbuf.write 0 (d.take dgramMax) := rfl
@[simp] theorem consume_rxlen (d : Bytes) (s : State) : (consume d s).rxlen = BitVec.ofNat 16 (min d.length 0xFFFF) := rfl
@[simp] theorem consume_txbuf (d : Bytes) (s : State) : (consume d s).txbuf = s.txbuf := rfl
@[simp] theorem consume_txlen (d : Bytes) (s : State) : (consume d s).txlen = s.txlen := rfl
@[simp] theorem consume_cfg (d : Bytes) (s : State) : (consume d s).cfg = s.cfg := rfl
@[simp] theorem consume_offers (d : Bytes) (s : State) : (consume d s).offers = s.offers := rfl
@[simp] theorem consume_outputs (d : Bytes) (s : State) : (consume d s).outputs = s.outputs := rfl
@[simp] theorem consume_draws (d : Bytes) (s : State) : (consume d s).draws = s.draws := rfl

@[simp] theorem rejectCommand_fsm (tag : Byte) (s : State) : (rejectCommand tag s).fsm = s.fsm := rfl
@[simp] theorem rejectCommand_op (tag : Byte) (s : State) : (rejectCommand tag s).op = s.op := rfl
@[simp] theorem rejectCommand_block (tag : Byte) (s : State) : (rejectCommand tag s).block = s.block := rfl
@[simp] theorem rejectCommand_last (tag : Byte) (s : State) : (rejectCommand tag s).last = s.last := rfl
@[simp] theorem rejectCommand_fileOpen (tag : Byte) (s : State) : (rejectCommand tag s).fileOpen = s.fileOpen := rfl
@[simp] theorem rejectCommand_reason (tag : Byte) (s : State) : (rejectCommand tag s).reason = s.reason := rfl
@[simp] theorem rejectCommand_errcode (tag : Byte) (s : State) : (rejectCommand tag s).errcode = s.errcode := rfl
@[simp] theorem rejectCommand_erridx (tag : Byte) (s : State) : (rejectCommand tag s).erridx = s.erridx := rfl
@[simp] theorem rejectCommand_name (tag : Byte) (s : State) : (rejectCommand tag s).name = s.name := rfl
@[simp] theorem rejectCommand_namelen (tag : Byte) (s : State) : (rejectCommand tag s).namelen = s.namelen := rfl
@[simp] theorem rejectCommand_rxbuf (tag : Byte) (s : State) : (rejectCommand tag s).rxbuf = s.rxbuf := rfl
@[simp] theorem rejectCommand_rxlen (tag : Byte) (s : State) : (rejectCommand tag s).rxlen = s.rxlen := rfl
@[simp] theorem rejectCommand_txbuf (tag : Byte) (s : State) : (rejectCommand tag s).txbuf = s.txbuf := rfl
@[simp] theorem rejectCommand_txlen (tag : Byte) (s : State) : (rejectCommand tag s).txlen = s.txlen := rfl
@[simp] theorem rejectCommand_cfg (tag : Byte) (s : State) : (rejectCommand tag s).cfg = s.cfg := rfl
@[simp] theorem rejectCommand_offers (tag : Byte) (s : State) : (rejectCommand tag s).offers = s.offers := rfl
@[simp] theorem rejectCommand_outputs (tag : Byte) (s : State) : (rejectCommand tag s).outputs = s.outputs ++ [.reject tag] := rfl
@[simp] theorem rejectCommand_draws (tag : Byte) (s : State) : (rejectCommand tag s).draws = s.draws := rfl

@[simp] theorem closeFile_fsm (s : State) : (closeFile s).fsm = s.fsm := by
  unfold closeFile; split <;> rfl
@[simp] theorem closeFile_op (s : State) : (closeFile s).op = s.op := by
  unfold closeFile; split <;> rfl
@[simp] theorem closeFile_block (s : State) : (closeFile s).block = s.block := by
  unfold closeFile; split <;> rfl
@[simp] theorem closeFile_last (s : State) : (closeFile s).last = s.last := by
  unfold closeFile; split <;> rfl
@[simp] theorem closeFile_fileOpen (s : State) : (closeFile s).fileOpen = false := by
  cases h : s.fileOpen <;> simp [closeFile, h]
@[simp] theorem closeFile_reason (s : State) : (closeFile s).reason = s.reason := by
  unfold closeFile; split <;> rfl
@[simp] theorem closeFile_errcode (s : State) : (closeFile s).errcode = s.errcode := by
  unfold closeFile; split <;> rfl
@[simp] theorem closeFile_erridx (s : State) : (closeFile s).erridx = s.erridx := by
  unfold closeFile; split <;> rfl
@[simp] theorem closeFile_name (s : State) : (closeFile s).name = s.name := by
  unfold closeFile; split <;> rfl
@[simp] theorem closeFile_namelen (s : State) : (closeFile s).namelen = s.namelen := by
  unfold closeFile; split <;> rfl
@[simp] theorem closeFile_rxbuf (s : State) : (closeFile s).rxbuf = s.rxbuf := by
  unfold closeFile; split <;> rfl
@[simp] theorem closeFile_rxlen (s : State) : (closeFile s).rxlen = s.rxlen := by
  unfold closeFile; split <;> rfl
@[simp] theorem closeFile_txbuf (s : State) : (closeFile s).txbuf = s.txbuf := by
  unfold closeFile; split <;> rfl
@[simp] theorem closeFile_txlen (s : State) : (closeFile s).txlen = s.txlen := by
  unfold closeFile; split <;> rfl
@[simp] theorem closeFile_cfg (s : State) : (closeFile s).cfg = s.cfg := by
  unfold closeFile; split <;> rfl
@[simp] theorem closeFile_offers (s : State) : (closeFile s).offers = s.offers := by
  unfold closeFile; split <;> rfl
@[simp] theorem closeFile_outputs (s : State) : (closeFile s).outputs = s.outputs ++ fcloseWhen s.fileOpen := by
  cases h : s.fileOpen <;> simp [closeFile, h]
@[simp] theorem closeFile_draws (s : State) : (closeFile s).draws = s.draws := by
  unfold closeFile; split <;> rfl

@[simp] theorem abort_fsm (r : Reason) (s : State) : (abort r s).fsm = .aborted := by
  simp [abort]
@[simp] theorem abort_op (r : Reason) (s : State) : (abort r s).op = s.op := by
  simp [abort]
@[simp] theorem abort_block (r : Reason) (s : State) : (abort r s).block = s.block := by
  simp [abort]
@[simp] theorem abort_last (r : Reason) (s : State) : (abort r s).last = s.last := by
  simp [abort]
@[simp] theorem abort_fileOpen (r : Reason) (s : State) : (abort r s).fileOpen = false := by
  simp [abort]
@[simp] theorem abort_reason (r : Reason) (s : State) : (abort r s).reason = r := by
  simp [abort]
@[simp] theorem abort_errcode (r : Reason) (s : State) : (abort r s).errcode = s.errcode := by
  simp [abort]
@[simp] theorem abort_erridx (r : Reason) (s : State) : (abort r s).erridx = s.erridx := by
  simp [abort]
@[simp] theorem abort_name (r : Reason) (s : State) : (abort r s).name = s.name := by
  simp [abort]
@[simp] theorem abort_namelen (r : Reason) (s : State) : (abort r s).namelen = s.namelen := by
  simp [abort]
@[simp] theorem abort_rxbuf (r : Reason) (s : State) : (abort r s).rxbuf = s.rxbuf := by
  simp [abort]
@[simp] theorem abort_rxlen (r : Reason) (s : State) : (abort r s).rxlen = s.rxlen := by
  simp [abort]
@[simp] theorem abort_txbuf (r : Reason) (s : State) : (abort r s).txbuf = s.txbuf := by
  simp [abort]
@[simp] theorem abort_txlen (r : Reason) (s : State) : (abort r s).txlen = s.txlen := by
  simp [abort]
@[simp] theorem abort_cfg (r : Reason) (s : State) : (abort r s).cfg = s.cfg := by
  simp [abort]
@[simp] theorem abort_offers (r : Reason) (s : State) : (abort r s).offers = s.offers := by
  simp [abort]
@[simp] theorem abort_outputs (r : Reason) (s : State) : (abort r s).outputs = s.outputs ++ fcloseWhen s.fileOpen ++ [.endSession .failed r s.errcode s.erridx] := by
  simp [abort]
@[simp] theorem abort_draws (r : Reason) (s : State) : (abort r s).draws = s.draws := by
  simp [abort]

@[simp] theorem serverError_fsm (code : U16) (s : State) : (serverError code s).fsm = .aborted := by
  simp [serverError]
@[simp] theorem serverError_op (code : U16) (s : State) : (serverError code s).op = s.op := by
  simp [serverError]
@[simp] theorem serverError_block (code : U16) (s : State) : (serverError code s).block = s.block := by
  simp [serverError]
@[simp] theorem serverError_last (code : U16) (s : State) : (serverError code s).last = s.last := by
  simp [serverError]
@[simp] theorem serverError_fileOpen (code : U16) (s : State) : (serverError code s).fileOpen = false := by
  simp [serverError]
@[simp] theorem serverError_reason (code : U16) (s : State) : (serverError code s).reason = .serverError := by
  simp [serverError]
@[simp] theorem serverError_errcode (code : U16) (s : State) : (serverError code s).errcode = code := by
  simp [serverError]
@[simp] theorem serverError_erridx (code : U16) (s : State) : (serverError code s).erridx = erridx code := by
  simp [serverError]
@[simp] theorem serverError_name (code : U16) (s : State) : (serverError code s).name = s.name := by
  simp [serverError]
@[simp] theorem serverError_namelen (code : U16) (s : State) : (serverError code s).namelen = s.namelen := by
  simp [serverError]
@[simp] theorem serverError_rxbuf (code : U16) (s : State) : (serverError code s).rxbuf = s.rxbuf := by
  simp [serverError]
@[simp] theorem serverError_rxlen (code : U16) (s : State) : (serverError code s).rxlen = s.rxlen := by
  simp [serverError]
@[simp] theorem serverError_txbuf (code : U16) (s : State) : (serverError code s).txbuf = s.txbuf := by
  simp [serverError]
@[simp] theorem serverError_txlen (code : U16) (s : State) : (serverError code s).txlen = s.txlen := by
  simp [serverError]
@[simp] theorem serverError_cfg (code : U16) (s : State) : (serverError code s).cfg = s.cfg := by
  simp [serverError]
@[simp] theorem serverError_offers (code : U16) (s : State) : (serverError code s).offers = s.offers := by
  simp [serverError]
@[simp] theorem serverError_outputs (code : U16) (s : State) : (serverError code s).outputs = s.outputs ++ fcloseWhen s.fileOpen ++ [.endSession .failed .serverError code (erridx code)] := by
  simp [serverError]
@[simp] theorem serverError_draws (code : U16) (s : State) : (serverError code s).draws = s.draws := by
  simp [serverError]

@[simp] theorem finish_fsm (s : State) : (finish s).fsm = .done := by
  simp [finish]
@[simp] theorem finish_op (s : State) : (finish s).op = s.op := by
  simp [finish]
@[simp] theorem finish_block (s : State) : (finish s).block = s.block := by
  simp [finish]
@[simp] theorem finish_last (s : State) : (finish s).last = s.last := by
  simp [finish]
@[simp] theorem finish_fileOpen (s : State) : (finish s).fileOpen = false := by
  simp [finish]
@[simp] theorem finish_reason (s : State) : (finish s).reason = .none := by
  simp [finish]
@[simp] theorem finish_errcode (s : State) : (finish s).errcode = s.errcode := by
  simp [finish]
@[simp] theorem finish_erridx (s : State) : (finish s).erridx = s.erridx := by
  simp [finish]
@[simp] theorem finish_name (s : State) : (finish s).name = s.name := by
  simp [finish]
@[simp] theorem finish_namelen (s : State) : (finish s).namelen = s.namelen := by
  simp [finish]
@[simp] theorem finish_rxbuf (s : State) : (finish s).rxbuf = s.rxbuf := by
  simp [finish]
@[simp] theorem finish_rxlen (s : State) : (finish s).rxlen = s.rxlen := by
  simp [finish]
@[simp] theorem finish_txbuf (s : State) : (finish s).txbuf = s.txbuf := by
  simp [finish]
@[simp] theorem finish_txlen (s : State) : (finish s).txlen = s.txlen := by
  simp [finish]
@[simp] theorem finish_cfg (s : State) : (finish s).cfg = s.cfg := by
  simp [finish]
@[simp] theorem finish_offers (s : State) : (finish s).offers = s.offers := by
  simp [finish]
@[simp] theorem finish_outputs (s : State) : (finish s).outputs = s.outputs ++ fcloseWhen s.fileOpen ++ [.endSession .success .none 0 0] := by
  simp [finish]
@[simp] theorem finish_draws (s : State) : (finish s).draws = s.draws := by
  simp [finish]

@[simp] theorem returnToIdle_fsm (s : State) : (returnToIdle s).fsm = .idle := rfl
@[simp] theorem returnToIdle_op (s : State) : (returnToIdle s).op = s.op := rfl
@[simp] theorem returnToIdle_block (s : State) : (returnToIdle s).block = s.block := rfl
@[simp] theorem returnToIdle_last (s : State) : (returnToIdle s).last = s.last := rfl
@[simp] theorem returnToIdle_fileOpen (s : State) : (returnToIdle s).fileOpen = s.fileOpen := rfl
@[simp] theorem returnToIdle_reason (s : State) : (returnToIdle s).reason = s.reason := rfl
@[simp] theorem returnToIdle_errcode (s : State) : (returnToIdle s).errcode = s.errcode := rfl
@[simp] theorem returnToIdle_erridx (s : State) : (returnToIdle s).erridx = s.erridx := rfl
@[simp] theorem returnToIdle_name (s : State) : (returnToIdle s).name = s.name := rfl
@[simp] theorem returnToIdle_namelen (s : State) : (returnToIdle s).namelen = s.namelen := rfl
@[simp] theorem returnToIdle_rxbuf (s : State) : (returnToIdle s).rxbuf = s.rxbuf := rfl
@[simp] theorem returnToIdle_rxlen (s : State) : (returnToIdle s).rxlen = s.rxlen := rfl
@[simp] theorem returnToIdle_txbuf (s : State) : (returnToIdle s).txbuf = s.txbuf := rfl
@[simp] theorem returnToIdle_txlen (s : State) : (returnToIdle s).txlen = s.txlen := rfl
@[simp] theorem returnToIdle_cfg (s : State) : (returnToIdle s).cfg = s.cfg := rfl
@[simp] theorem returnToIdle_offers (s : State) : (returnToIdle s).offers = s.offers := rfl
@[simp] theorem returnToIdle_outputs (s : State) : (returnToIdle s).outputs = s.outputs := rfl
@[simp] theorem returnToIdle_draws (s : State) : (returnToIdle s).draws = s.draws := rfl

@[simp] theorem requestBlock_fsm (s : State) : (requestBlock s).fsm = .ulSending := rfl
@[simp] theorem requestBlock_op (s : State) : (requestBlock s).op = s.op := rfl
@[simp] theorem requestBlock_block (s : State) : (requestBlock s).block = s.block := rfl
@[simp] theorem requestBlock_last (s : State) : (requestBlock s).last = s.last := rfl
@[simp] theorem requestBlock_fileOpen (s : State) : (requestBlock s).fileOpen = s.fileOpen := rfl
@[simp] theorem requestBlock_reason (s : State) : (requestBlock s).reason = s.reason := rfl
@[simp] theorem requestBlock_errcode (s : State) : (requestBlock s).errcode = s.errcode := rfl
@[simp] theorem requestBlock_erridx (s : State) : (requestBlock s).erridx = s.erridx := rfl
@[simp] theorem requestBlock_name (s : State) : (requestBlock s).name = s.name := rfl
@[simp] theorem requestBlock_namelen (s : State) : (requestBlock s).namelen = s.namelen := rfl
@[simp] theorem requestBlock_rxbuf (s : State) : (requestBlock s).rxbuf = s.rxbuf := rfl
@[simp] theorem requestBlock_rxlen (s : State) : (requestBlock s).rxlen = s.rxlen := rfl
@[simp] theorem requestBlock_txbuf (s : State) : (requestBlock s).txbuf = s.txbuf := rfl
@[simp] theorem requestBlock_txlen (s : State) : (requestBlock s).txlen = s.txlen := rfl
@[simp] theorem requestBlock_cfg (s : State) : (requestBlock s).cfg = s.cfg := rfl
@[simp] theorem requestBlock_offers (s : State) : (requestBlock s).offers = s.offers := rfl
@[simp] theorem requestBlock_outputs (s : State) : (requestBlock s).outputs = s.outputs ++ [.fread payloadMax] := rfl
@[simp] theorem requestBlock_draws (s : State) : (requestBlock s).draws = s.draws := rfl

@[simp] theorem clearSession_fsm (s : State) : (clearSession s).fsm = s.fsm := rfl
@[simp] theorem clearSession_op (s : State) : (clearSession s).op = 0 := rfl
@[simp] theorem clearSession_block (s : State) : (clearSession s).block = 1 := rfl
@[simp] theorem clearSession_last (s : State) : (clearSession s).last = false := rfl
@[simp] theorem clearSession_fileOpen (s : State) : (clearSession s).fileOpen = s.fileOpen := rfl
@[simp] theorem clearSession_reason (s : State) : (clearSession s).reason = .none := rfl
@[simp] theorem clearSession_errcode (s : State) : (clearSession s).errcode = 0 := rfl
@[simp] theorem clearSession_erridx (s : State) : (clearSession s).erridx = 0 := rfl
@[simp] theorem clearSession_name (s : State) : (clearSession s).name = s.name := rfl
@[simp] theorem clearSession_namelen (s : State) : (clearSession s).namelen = 0 := rfl
@[simp] theorem clearSession_rxbuf (s : State) : (clearSession s).rxbuf = s.rxbuf := rfl
@[simp] theorem clearSession_rxlen (s : State) : (clearSession s).rxlen = s.rxlen := rfl
@[simp] theorem clearSession_txbuf (s : State) : (clearSession s).txbuf = s.txbuf := rfl
@[simp] theorem clearSession_txlen (s : State) : (clearSession s).txlen = s.txlen := rfl
@[simp] theorem clearSession_cfg (s : State) : (clearSession s).cfg = s.cfg := rfl
@[simp] theorem clearSession_offers (s : State) : (clearSession s).offers = s.offers := rfl
@[simp] theorem clearSession_outputs (s : State) : (clearSession s).outputs = s.outputs := rfl
@[simp] theorem clearSession_draws (s : State) : (clearSession s).draws = s.draws := rfl

@[simp] theorem resetEngine_fsm (s : State) : (resetEngine s).fsm = .idle := rfl
@[simp] theorem resetEngine_op (s : State) : (resetEngine s).op = 0 := rfl
@[simp] theorem resetEngine_block (s : State) : (resetEngine s).block = Config.freeBlock (s.draws + 1) := rfl
@[simp] theorem resetEngine_last (s : State) : (resetEngine s).last = false := rfl
@[simp] theorem resetEngine_fileOpen (s : State) : (resetEngine s).fileOpen = false := rfl
@[simp] theorem resetEngine_reason (s : State) : (resetEngine s).reason = .none := rfl
@[simp] theorem resetEngine_errcode (s : State) : (resetEngine s).errcode = 0 := rfl
@[simp] theorem resetEngine_erridx (s : State) : (resetEngine s).erridx = 0 := rfl
@[simp] theorem resetEngine_name (s : State) : (resetEngine s).name = [] := rfl
@[simp] theorem resetEngine_namelen (s : State) : (resetEngine s).namelen = 0 := rfl
@[simp] theorem resetEngine_rxbuf (s : State) : (resetEngine s).rxbuf = [] := rfl
@[simp] theorem resetEngine_rxlen (s : State) : (resetEngine s).rxlen = 0 := rfl
@[simp] theorem resetEngine_txbuf (s : State) : (resetEngine s).txbuf = [] := rfl
@[simp] theorem resetEngine_txlen (s : State) : (resetEngine s).txlen = 0 := rfl
@[simp] theorem resetEngine_cfg (s : State) : (resetEngine s).cfg = s.cfg := rfl
@[simp] theorem resetEngine_offers (s : State) : (resetEngine s).offers = s.offers := rfl
@[simp] theorem resetEngine_outputs (s : State) : (resetEngine s).outputs = s.outputs := rfl
@[simp] theorem resetEngine_draws (s : State) : (resetEngine s).draws = s.draws + 1 := rfl

end Sys2Proof.Machine
end

