-- ==== Sys2Proof/Laws/Memory.lean ====
section
/-! SUPPORT. The byte stores: what a read sees after a write, and that a write keeps a store's form and size. -/

namespace Sys2Proof.Machine

theorem mem_cellsFrom {c : Host.Cell} : ∀ {a : Nat} {bs : Bytes}, c ∈ cellsFrom a bs → a ≤ c.1 ∧ c.1 < a + bs.length
  | _, [], h => by simp [cellsFrom] at h
  | a, _ :: bs, h => by
    simp only [cellsFrom, List.mem_cons] at h
    rcases h with rfl | h
    · simp
    · have := mem_cellsFrom h
      simp only [List.length_cons]
      omega

theorem lookup_cellsFrom : ∀ (bs : Bytes) (a x : Nat),
    (cellsFrom a bs).lookup x = if a ≤ x then bs[x - a]? else none
  | [], a, x => by simp [cellsFrom]
  | b :: bs, a, x => by
    rw [cellsFrom, List.lookup_cons, lookup_cellsFrom bs (a + 1) x]
    by_cases hx : x = a
    · subst hx; simp
    · have hb : (x == a) = false := by simpa using hx
      rw [hb]
      by_cases hle : a ≤ x
      · have h1 : x - a = (x - (a + 1)) + 1 := by omega
        have h2 : a + 1 ≤ x := by omega
        simp only [hle, h2, if_true]
        rw [h1, List.getElem?_cons_succ]
      · have h2 : ¬ a + 1 ≤ x := by omega
        simp [hle, h2]

theorem lookup_append (l m : Memory) (x : Nat) : (l ++ m).lookup x = (l.lookup x).or (m.lookup x) := by
  induction l with
  | nil => simp
  | cons c l ih =>
    obtain ⟨k, v⟩ := c
    simp only [List.cons_append, List.lookup_cons, ih]
    cases x == k <;> simp

theorem lookup_filter (p : Nat → Bool) (m : Memory) (x : Nat) :
    (m.filter (fun c => p c.1)).lookup x = if p x then m.lookup x else none := by
  induction m with
  | nil => simp
  | cons c m ih =>
    obtain ⟨k, v⟩ := c
    by_cases hk : x = k
    · subst hk
      cases hp : p x
      · simp [hp, ih]
      · simp [hp]
    · have hb : (x == k) = false := by simpa using hk
      cases hp : p k
      · simp [List.lookup_cons, hp, ih, hb]
      · simp [List.lookup_cons, hp, ih, hb]

/-- A write of `bs` at `a`: an offset inside it reads the byte written, every other offset reads as before. -/
theorem readByte_write (m : Memory) (a : Nat) (bs : Bytes) (x : Nat) :
    (m.write a bs).readByte x = if a ≤ x ∧ x < a + bs.length then bs[x - a]? else m.readByte x := by
  unfold Memory.write Memory.readByte
  rw [lookup_append, lookup_append, lookup_filter (fun k => decide (k < a)), lookup_cellsFrom,
    lookup_filter (fun k => decide (a + bs.length ≤ k))]
  by_cases h1 : x < a
  · have h2 : ¬ a ≤ x := by omega
    have h3 : ¬ a + bs.length ≤ x := by omega
    simp [h1, h2, h3]
  · have h2 : a ≤ x := by omega
    by_cases h3 : x < a + bs.length
    · have h4 : ¬ a + bs.length ≤ x := by omega
      have h5 : ¬ bs.length ≤ x - a := by omega
      simp [h1, h2, h3, h4]
    · have h4 : a + bs.length ≤ x := by omega
      have h5 : bs[x - a]? = none := by rw [List.getElem?_eq_none]; omega
      simp [h1, h2, h3, h4, h5]

/-- Reading is reading each byte. -/
theorem read_eq_some {m : Memory} : ∀ {n a : Nat} {bs : Bytes},
    m.read a n = some bs ↔ bs.length = n ∧ ∀ k, k < n → m.readByte (a + k) = bs[k]?
  | 0, a, bs => by
    cases bs <;> simp [Memory.read]
  | n + 1, a, bs => by
    constructor
    · intro h
      simp only [Memory.read] at h
      split at h
      · rename_i b cs hb hcs
        have ih := (read_eq_some (n := n) (a := a + 1) (bs := cs)).1 hcs
        cases h
        refine ⟨by simp [ih.1], fun k hk => ?_⟩
        cases k with
        | zero => simpa using hb
        | succ k =>
          have := ih.2 k (by omega)
          rw [List.getElem?_cons_succ, ← this]
          congr 1; omega
      · cases h
    · rintro ⟨hl, hb⟩
      cases bs with
      | nil => simp at hl
      | cons b cs =>
        have h0 := hb 0 (by omega)
        have hcs : m.read (a + 1) n = some cs := by
          refine (read_eq_some (n := n) (a := a + 1) (bs := cs)).2 ⟨by simpa using hl, fun k hk => ?_⟩
          have := hb (k + 1) (by omega)
          rw [List.getElem?_cons_succ] at this
          rw [← this]; congr 1; omega
        simp only [Nat.add_zero, List.getElem?_cons_zero] at h0
        simp [Memory.read, h0, hcs]

/-! ### What a store holds: the byte written, else the reset's draw -/

@[simp] theorem store_rx (s : State) : s.store .rx = s.rxbuf := rfl
@[simp] theorem store_tx (s : State) : s.store .tx = s.txbuf := rfl
@[simp] theorem store_name (s : State) : s.store .name = s.name := rfl

/-- A byte that has been written is read. -/
theorem byteAt_written {s : State} {sp : Space} {a : Nat} {b : Byte} (h : (s.store sp).readByte a = some b) :
    s.byteAt sp a = b := by
  unfold State.byteAt; rw [h]; rfl

/-- A byte that nothing has written since reset is the reset's draw (R116). -/
theorem byteAt_unwritten {s : State} {sp : Space} {a : Nat} (h : (s.store sp).readByte a = none) :
    s.byteAt sp a = Config.freeByte s.draws sp a := by
  unfold State.byteAt; rw [h]; rfl

/-- What a store holds depends on what was written to it and on the reset's draws alone. -/
theorem byteAt_congr {s t : State} {sp : Space} {a : Nat} (h : (t.store sp).readByte a = (s.store sp).readByte a)
    (hd : t.draws = s.draws) : t.byteAt sp a = s.byteAt sp a := by
  unfold State.byteAt; rw [h, hd]

theorem bytesAt_congr {s t : State} {sp : Space} (h : t.store sp = s.store sp) (hd : t.draws = s.draws) (a n : Nat) :
    t.bytesAt sp a n = s.bytesAt sp a n := by
  induction n generalizing a with
  | zero => rfl
  | succ n ih => simp only [State.bytesAt, ih, byteAt_congr (congrArg (fun m => Memory.readByte m a) h) hd]

@[simp] theorem bytesAt_fileOpen (s : State) (o : Bool) (sp : Space) (a n : Nat) :
    State.bytesAt { s with fileOpen := o } sp a n = s.bytesAt sp a n :=
  bytesAt_congr (s := s) (t := { s with fileOpen := o }) (by cases sp <;> rfl) rfl a n

@[simp] theorem bytesAt_length (s : State) (sp : Space) (a n : Nat) : (s.bytesAt sp a n).length = n := by
  induction n generalizing a with
  | zero => rfl
  | succ n ih => simp [State.bytesAt, ih]

/-- Bytes that have all been written are read, whatever the reset drew. -/
theorem bytesAt_written {s : State} {sp : Space} : ∀ {n a : Nat} {bs : Bytes},
    (s.store sp).read a n = some bs → s.bytesAt sp a n = bs
  | 0, _, _, h => by cases h; rfl
  | n + 1, a, bs, h => by
    simp only [Memory.read] at h
    split at h
    · rename_i b cs hb hcs
      cases h
      simp only [State.bytesAt, byteAt_written hb, bytesAt_written hcs]
    · cases h

/-- A read of `n` bytes inside a byte string just written. -/
theorem read_write_slice (m : Memory) (bs : Bytes) (off n : Nat) (h : off + n ≤ bs.length) :
    (m.write 0 bs).read off n = some ((bs.drop off).take n) := by
  refine read_eq_some.2 ⟨by simp; omega, fun k hk => ?_⟩
  rw [readByte_write]
  have h1 : 0 ≤ off + k ∧ off + k < 0 + bs.length := by omega
  rw [if_pos h1, List.getElem?_take, if_pos hk, List.getElem?_drop]
  simp

/-- A byte string just written reads back whole. -/
theorem read_write (m : Memory) (bs : Bytes) : (m.write 0 bs).read 0 bs.length = some bs := by
  simpa using read_write_slice m bs 0 bs.length (by omega)

/-- A byte written from offset 0 is read back. -/
theorem byteAt_write {s t : State} {sp : Space} {bs : Bytes} {a : Nat} (h : t.store sp = (s.store sp).write 0 bs)
    (ha : a < bs.length) : some (t.byteAt sp a) = bs[a]? := by
  obtain ⟨b, hb⟩ : ∃ b, bs[a]? = some b := ⟨_, List.getElem?_eq_getElem ha⟩
  rw [hb, byteAt_written (b := b)]
  rw [h, readByte_write, if_pos (by omega)]
  exact hb

/-- A byte above what is written from offset 0 stays. -/
theorem byteAt_write_above {s t : State} {sp : Space} {bs : Bytes} {a : Nat} (h : t.store sp = (s.store sp).write 0 bs)
    (hd : t.draws = s.draws) (ha : bs.length ≤ a) : t.byteAt sp a = s.byteAt sp a := by
  refine byteAt_congr ?_ hd
  rw [h, readByte_write, if_neg (by omega)]

/-- A byte string written from offset 0 is read back whole. -/
theorem bytesAt_write {s t : State} {sp : Space} {bs : Bytes} (h : t.store sp = (s.store sp).write 0 bs) :
    t.bytesAt sp 0 bs.length = bs :=
  bytesAt_written (by rw [h, read_write])

theorem cellsFrom_wf : ∀ (bs : Bytes) (a : Nat), Memory.wf (cellsFrom a bs)
  | [], _ => by simp [Memory.wf, cellsFrom]
  | b :: bs, a => by
    simp only [Memory.wf, cellsFrom, List.map_cons, List.pairwise_cons]
    refine ⟨fun x hx => ?_, cellsFrom_wf bs (a + 1)⟩
    obtain ⟨c, hc, rfl⟩ := List.mem_map.1 hx
    have := mem_cellsFrom hc
    omega

theorem filter_wf (p : Host.Cell → Bool) {m : Memory} (h : m.wf) : Memory.wf (m.filter p) :=
  List.Pairwise.sublist (List.filter_sublist.map Prod.fst) h

/-- Every write keeps the form: offsets strictly rising. -/
theorem write_wf {m : Memory} (a : Nat) (bs : Bytes) (h : m.wf) : (m.write a bs).wf := by
  unfold Memory.write Memory.wf
  rw [List.map_append, List.map_append]
  refine List.pairwise_append.2 ⟨List.pairwise_append.2 ⟨filter_wf _ h, cellsFrom_wf bs a, ?_⟩, filter_wf _ h, ?_⟩
  · intro x hx y hy
    obtain ⟨c, hc, rfl⟩ := List.mem_map.1 hx
    obtain ⟨e, he, rfl⟩ := List.mem_map.1 hy
    have h1 : c.1 < a := by simpa using (List.mem_filter.1 hc).2
    have h2 := mem_cellsFrom he
    omega
  · intro x hx y hy
    obtain ⟨e, he, rfl⟩ := List.mem_map.1 hy
    have h2 : a + bs.length ≤ e.1 := by simpa using (List.mem_filter.1 he).2
    rw [← List.map_append] at hx
    obtain ⟨c, hc, rfl⟩ := List.mem_map.1 hx
    rcases List.mem_append.1 hc with hc | hc
    · have h1 : c.1 < a := by simpa using (List.mem_filter.1 hc).2
      omega
    · have h1 := mem_cellsFrom hc
      omega

/-- A write inside a store's size keeps the store within it. -/
theorem write_within {m : Memory} {size a : Nat} {bs : Bytes} (h : m.within size) (hb : a + bs.length ≤ size) :
    (m.write a bs).within size := by
  intro c hc
  unfold Memory.write at hc
  rcases List.mem_append.1 hc with hc | hc
  · rcases List.mem_append.1 hc with hc | hc
    · exact h c (List.mem_filter.1 hc).1
    · have := mem_cellsFrom hc
      omega
  · exact h c (List.mem_filter.1 hc).1

theorem nil_wf : Memory.wf [] := by simp [Memory.wf]

theorem nil_within (size : Nat) : Memory.within [] size := by simp [Memory.within]

end Sys2Proof.Machine
end

