-- ==== Sys2Proof/Laws/Ops.lean ====
section
/-! SUPPORT. One lemma per shared operation: what reads, emissions and the rules of one state answer, so that no later proof
unfolds them. -/

namespace Sys2Proof.Machine

@[simp] theorem orFault_ok {α : Type} (a : α) (k : α → Result) : orFault (.ok a) k = k a := rfl

@[simp] theorem orFault_error {α : Type} (f : Fault) (k : α → Result) : orFault (.error f) k = .fault f := rfl

/-- What `orFault` answers `next` for. -/
theorem orFault_eq_next {α : Type} {r : Except Fault α} {k : α → Result} {t : State} (h : orFault r k = .next t) :
    ∃ a, r = .ok a ∧ k a = .next t := by
  cases r with
  | ok a => exact ⟨a, rfl, h⟩
  | error f => cases h

@[simp] theorem storeSize_rx (cfg : Config) : storeSize cfg .rx = 516 := rfl
@[simp] theorem storeSize_tx (cfg : Config) : storeSize cfg .tx = 516 := rfl
@[simp] theorem storeSize_name (cfg : Config) : storeSize cfg .name = cfg.maxName.val := rfl

/-- R112: a datagram that fits `TXBUF` is emitted. -/
theorem emitTx_ok {b : Bytes} (h : b.length ≤ dgramMax) (s : State) : emitTx b s = .ok (putTx b s) := by
  unfold emitTx; rw [if_neg (by omega)]

theorem emitTx_eq_ok {b : Bytes} {s t : State} (h : emitTx b s = .ok t) : b.length ≤ dgramMax ∧ t = putTx b s := by
  unfold emitTx at h
  split at h
  · cases h
  · cases h; exact ⟨by omega, rfl⟩

theorem emitEncoded_ok {b : Bytes} (h : b.length ≤ dgramMax) (s : State) :
    emitEncoded (.ok b) s = .ok (putTx b s) := emitTx_ok h s

theorem emitEncoded_eq_ok {r : Except EncErr Bytes} {s t : State} (h : emitEncoded r s = .ok t) :
    ∃ b, r = .ok b ∧ b.length ≤ dgramMax ∧ t = putTx b s := by
  cases r with
  | ok b => exact ⟨b, rfl, emitTx_eq_ok h⟩
  | error e => cases h

/-- R611, R612: closing the file, as one record. -/
theorem closeFile_eq (s : State) : closeFile s =
    { s with fileOpen := false, outputs := s.outputs ++ fcloseWhen s.fileOpen } := by
  obtain ⟨f, op, block, last, fileOpen, reason, errcode, index, name, nl, rb, rl, tb, tl, cfg, offers, outs, draws⟩ := s
  cases fileOpen <;> simp [closeFile, emit]

/-- R611: the abort procedure, as one record. -/
theorem abort_eq (r : Reason) (s : State) : abort r s =
    { s with
        fsm := .aborted, reason := r, fileOpen := false,
        outputs := s.outputs ++ fcloseWhen s.fileOpen ++ [.endSession .failed r s.errcode s.erridx] } := by
  unfold abort emit
  rw [closeFile_eq]

/-- R612: the success procedure, as one record. -/
theorem finish_eq (s : State) : finish s =
    { s with
        fsm := .done, reason := .none, fileOpen := false,
        outputs := s.outputs ++ fcloseWhen s.fileOpen ++ [.endSession .success .none 0 0] } := by
  unfold finish emit
  rw [closeFile_eq]

/-- R502, R551, R556: taking a server's Error, as one record. -/
theorem serverError_eq (code : U16) (s : State) : serverError code s =
    { s with
        fsm := .aborted, reason := .serverError, errcode := code, erridx := erridx code, fileOpen := false,
        outputs := s.outputs ++ fcloseWhen s.fileOpen ++
          [.endSession .failed .serverError code (erridx code)] } := by
  unfold serverError
  rw [abort_eq]

/-- R13 `MemRead` inside a store: the bytes it holds. -/
theorem memRead_ok {sp : Space} {a n : Nat} {s : State} (h : a + n ≤ storeSize s.cfg sp) :
    memRead sp a n s = .ok (s.bytesAt sp a n) := by
  unfold memRead; rw [if_neg (by omega)]

theorem memRead_eq_ok {sp : Space} {a n : Nat} {s : State} {bs : Bytes} (h : memRead sp a n s = .ok bs) :
    a + n ≤ storeSize s.cfg sp ∧ bs = s.bytesAt sp a n := by
  unfold memRead at h
  split at h
  · cases h
  · cases h; exact ⟨by omega, rfl⟩

/-- R13, R453: the payload read after consumption is the datagram's own bytes. -/
theorem memRead_consumed {d : Bytes} {off len : Nat} (h : off + len ≤ d.length) (hd : d.length ≤ dgramMax) (s : State) :
    memRead .rx off len (consume d s) = .ok ((d.drop off).take len) := by
  rw [memRead_ok (by rw [storeSize_rx]; unfold dgramMax at hd; omega)]
  congr 1
  apply bytesAt_written
  simp only [store_rx, consume_rxbuf, List.take_of_length_le hd, read_write_slice _ _ _ _ h]

/-- R458: what the store `NAME` holds below `NAMELEN`. -/
theorem readName_ok {s : State} (hb : s.namelen.toNat ≤ s.cfg.maxName.val) :
    readName s = .ok (s.bytesAt .name 0 s.namelen.toNat) :=
  memRead_ok (by rw [storeSize_name]; omega)

theorem readName_eq_ok {s : State} {n : Bytes} (h : readName s = .ok n) :
    s.namelen.toNat ≤ s.cfg.maxName.val ∧ n = s.bytesAt .name 0 s.namelen.toNat := by
  obtain ⟨h1, h2⟩ := memRead_eq_ok h
  rw [storeSize_name] at h1
  exact ⟨by omega, h2⟩

/-- R503: a Data unit whose bytes are a whole datagram of at most 516 bytes is appended whole. -/
theorem acceptData_eq {block : U16} {p : Bytes} (h : p.length ≤ payloadMax) (s : State) :
    acceptData (dataBytes block p) 4 p.length (consume (dataBytes block p) s) =
      .next (emit (.fappend p)
        { consume (dataBytes block p) s with last := finalUnit (4 + p.length), fsm := .dlWriting }) := by
  unfold acceptData
  rw [memRead_consumed (by rw [dataBytes_length]) (by rw [dataBytes_length]; unfold dgramMax; unfold payloadMax at h; omega),
    orFault_ok, dataBytes_drop, List.take_length, dataBytes_length]

/-- R501: every outcome of a datagram in a download wait, with the condition it has. -/
theorem downloadReceive_cases (d : Bytes) (s : State) :
    (∃ code, decodeDatagram d = .error code ∧ downloadReceive d s = .next (serverError code (consume d s))) ∨
    (∃ p, d = dataBytes s.block p ∧ p.length ≤ payloadMax ∧
      downloadReceive d s = .next (emit (.fappend p)
        { consume d s with last := finalUnit (4 + p.length), fsm := .dlWriting })) ∨
    ((∀ code, decodeDatagram d ≠ .error code) ∧ (∀ p, p.length ≤ payloadMax → d ≠ dataBytes s.block p) ∧
      downloadReceive d s = .next (consume d s)) := by
  unfold downloadReceive
  cases hv : decodeDatagram d with
  | error code => exact .inl ⟨code, rfl, rfl⟩
  | data block off len =>
    obtain ⟨p, rfl, hp, rfl, rfl⟩ := decodeDatagram_eq_data hv
    by_cases hb : block = s.block
    · subst hb
      refine .inr (.inl ⟨p, rfl, hp, ?_⟩)
      simp only [if_true, acceptData_eq hp]
    · refine .inr (.inr ⟨by simp, fun q hq e => ?_, by simp [hb]⟩)
      rw [e, decodeDatagram_data _ hq] at hv
      injection hv with h1
      exact hb h1.symm
  | ack block =>
    refine .inr (.inr ⟨by simp, fun q hq e => ?_, rfl⟩)
    rw [e, decodeDatagram_data _ hq] at hv
    cases hv
  | unrecognized =>
    refine .inr (.inr ⟨by simp, fun q hq e => ?_, rfl⟩)
    rw [e, decodeDatagram_data _ hq] at hv
    cases hv

/-- R551, R552: every outcome of a datagram in the grant wait. -/
theorem grantReceive_cases (d : Bytes) (s : State) :
    (∃ code, decodeDatagram d = .error code ∧ grantReceive d s = .next (serverError code (consume d s))) ∨
    ((∀ code, decodeDatagram d ≠ .error code) ∧ grantReceive d s = .next (requestBlock (consume d s))) := by
  unfold grantReceive
  cases hv : decodeDatagram d with
  | error code => exact .inl ⟨code, rfl, rfl⟩
  | data block off len => exact .inr ⟨by simp, rfl⟩
  | ack block => exact .inr ⟨by simp, rfl⟩
  | unrecognized => exact .inr ⟨by simp, rfl⟩

/-- R555 to R557: every outcome of a datagram while an Ack is awaited. -/
theorem ackReceive_cases (d : Bytes) (s : State) :
    (∃ code, decodeDatagram d = .error code ∧ ackReceive d s = .next (serverError code (consume d s))) ∨
    (d = ackBytes s.block ∧ ackReceive d s = .next (requestBlock { consume d s with block := s.block + 1 })) ∨
    ((∀ code, decodeDatagram d ≠ .error code) ∧ d ≠ ackBytes s.block ∧
      ackReceive d s = .next (abort .sequence (consume d s))) := by
  unfold ackReceive
  cases hv : decodeDatagram d with
  | error code => exact .inl ⟨code, rfl, rfl⟩
  | data block off len =>
    refine .inr (.inr ⟨by simp, fun e => ?_, rfl⟩)
    rw [e, decodeDatagram_ack] at hv
    cases hv
  | ack block =>
    have hd := decodeDatagram_eq_ack hv
    by_cases hb : block = s.block
    · subst hb
      exact .inr (.inl ⟨hd, by simp only [if_true]⟩)
    · refine .inr (.inr ⟨by simp, fun e => ?_, by simp only [if_neg hb]⟩)
      rw [e, decodeDatagram_ack] at hv
      injection hv with h1
      exact hb h1.symm
  | unrecognized =>
    refine .inr (.inr ⟨by simp, fun e => ?_, rfl⟩)
    rw [e, decodeDatagram_ack] at hv
    cases hv

/-- R506: what an append that succeeded does. -/
theorem appended_eq (s : State) :
    appended s = .next (if s.last then finish { putTx (ackBytes s.block) s with block := s.block + 1 }
      else { putTx (ackBytes s.block) s with block := s.block + 1, fsm := .dlAwaitNext }) := by
  unfold appended
  rw [encodeAck_eq, emitEncoded_ok (by rw [ackBytes_length]; unfold dgramMax; omega), orFault_ok]
  cases s.last <;> rfl

/-- R553: what a read that succeeded does. -/
theorem sendBlock_eq {data : Bytes} (h : data.length ≤ payloadMax) (s : State) :
    sendBlock data s = .next (if data.length < payloadMax then finish (putTx (dataBytes s.block data) s)
      else { putTx (dataBytes s.block data) s with fsm := .ulAwaitAck }) := by
  unfold sendBlock
  rw [encodeData_eq _ h, emitEncoded_ok (by rw [dataBytes_length]; unfold dgramMax; unfold payloadMax at h; omega), orFault_ok]
  unfold finalRead
  by_cases hf : data.length < payloadMax <;> simp [hf]

/-- R458, R413: what an open that succeeded does, where the session's name and op are legal. -/
theorem sendRequest_eq {s : State} {n : Bytes} (hop : s.op = 1 ∨ s.op = 2) (hb : s.namelen.toNat ≤ s.cfg.maxName.val)
    (hn : s.bytesAt .name 0 s.namelen.toNat = n) (hz : hasNul n = false) :
    sendRequest s = .next
      { putTx (requestBytes (s.op.setWidth 16) n modeString) { s with fileOpen := true } with
          fsm := if s.op = 1 then .dlAwaitFirst else .ulAwaitGrant } := by
  have hl : n.length ≤ 507 := by
    have h1 := bytesAt_length s .name 0 s.namelen.toNat
    have h2 := s.cfg.maxName.isLt
    rw [hn] at h1
    omega
  have hop16 : s.op.setWidth 16 = (1 : U16) ∨ s.op.setWidth 16 = (2 : U16) := by
    rcases hop with h | h <;> simp [h]
  have hm : modeString.length = 5 := rfl
  have hr : readName { s with fileOpen := true } = .ok n :=
    (readName_ok (s := { s with fileOpen := true }) hb).trans
      (congrArg _ ((bytesAt_fileOpen s true .name 0 _).trans hn))
  unfold sendRequest
  simp only
  rw [hr, orFault_ok,
    encodeRequest_eq hop16 hz modeString_noNul (by rw [hm]; unfold dgramMax; omega),
    emitEncoded_ok (by rw [requestBytes_length, hm]; unfold dgramMax; omega), orFault_ok]

/-- R458: what a next state of an open that succeeded is. -/
theorem sendRequest_eq_next {s t : State} (h : sendRequest s = .next t) :
    ∃ req, req.length ≤ dgramMax ∧ (s.op = 1 ∨ s.op = 2) ∧
      req = requestBytes (s.op.setWidth 16) (s.bytesAt .name 0 s.namelen.toNat) modeString ∧
      t = { putTx req { s with fileOpen := true } with fsm := if s.op = 1 then .dlAwaitFirst else .ulAwaitGrant } := by
  unfold sendRequest at h
  obtain ⟨n, hn, h⟩ := orFault_eq_next h
  obtain ⟨u, hu, h⟩ := orFault_eq_next h
  obtain ⟨req, hr, hl, rfl⟩ := emitEncoded_eq_ok hu
  have hreq : req = requestBytes (s.op.setWidth 16) n modeString := by
    unfold encodeRequest at hr
    split at hr
    · cases hr
    · split at hr
      · cases hr
      · split at hr
        · cases hr
        · cases hr; rfl
  have hname : n = s.bytesAt .name 0 s.namelen.toNat :=
    (readName_eq_ok hn).2.trans (bytesAt_fileOpen s true .name 0 _)
  refine ⟨req, hl, ?_, hname ▸ hreq, by cases h; rfl⟩
  by_contra hc
  unfold encodeRequest at hr
  have h1 : s.op.setWidth 16 ≠ (1 : U16) := fun e => hc (.inl (by
    apply BitVec.eq_of_toNat_eq
    have := congrArg BitVec.toNat e
    have := s.op.isLt
    simp at *
    omega))
  have h2 : s.op.setWidth 16 ≠ (2 : U16) := fun e => hc (.inr (by
    apply BitVec.eq_of_toNat_eq
    have := congrArg BitVec.toNat e
    have := s.op.isLt
    simp at *
    omega))
  rw [if_pos ⟨h1, h2⟩] at hr
  cases hr

/-- R457: when START passes its checks. -/
theorem validate_eq_none {cfg : Config} {op : U16} {name : Bytes} :
    validate cfg op name = none ↔
      (op = 1 ∨ op = 2) ∧ hasNul name = false ∧ name.length ≤ cfg.maxName.val := by
  unfold validate
  by_cases h1 : op ≠ 1 ∧ op ≠ 2
  · rw [if_pos h1]
    constructor
    · intro h; cases h
    · rintro ⟨h | h, -⟩
      · exact absurd h h1.1
      · exact absurd h h1.2
  · rw [if_neg h1]
    have h1' : op = 1 ∨ op = 2 := by
      by_contra hc
      exact h1 ⟨fun e => hc (.inl e), fun e => hc (.inr e)⟩
    cases hz : hasNul name
    · by_cases hl : cfg.maxName.val < name.length
      · simp [hl]
      · simp only [if_neg hl, Bool.false_eq_true, if_false, true_iff]
        exact ⟨h1', trivial, by omega⟩
    · simp

/-- R457: which reason a failed check of START raises. -/
theorem validate_eq_some {cfg : Config} {op : U16} {name : Bytes} {r : Reason} (h : validate cfg op name = some r) :
    (r = .inputBadOp ∧ op ≠ 1 ∧ op ≠ 2) ∨
    (r = .inputBadName ∧ (op = 1 ∨ op = 2) ∧ (hasNul name = true ∨ cfg.maxName.val < name.length)) := by
  unfold validate at h
  split at h
  · rename_i h1
    cases h
    exact .inl ⟨rfl, h1⟩
  · rename_i h1
    have h1' : op = 1 ∨ op = 2 := by
      by_contra hc
      exact h1 ⟨fun e => hc (.inl e), fun e => hc (.inr e)⟩
    split at h
    · rename_i h2
      cases h
      exact .inr ⟨rfl, h1', .inl h2⟩
    · split at h
      · rename_i h3
        cases h
        exact .inr ⟨rfl, h1', .inr h3⟩
      · cases h

end Sys2Proof.Machine
end

