-- ==== Sys2Proof/Laws/Effect.lean ====
section
/-! SUPPORT. Everything an instruction can do, said once: `exec_effect` is the inversion of `exec`, and every claim about all
instructions follows from it by cases on `Effect`. -/

namespace Sys2Proof.Machine

/-- The next states `exec i s` can answer, by the rule that gives them. -/
inductive Effect : Instr → State → State → Prop
  /-- R14: the event is not enabled -/
  | noStep {i : Instr} {s : State} (h : enabled s.cfg s.fsm i = false) : Effect i s s
  /-- R461 -/
  | answered (n : U16) {s : State} : Effect (.readStatus n) s (emit (.status (statusRegister n s)) s)
  /-- R462 -/
  | startRejected (op : U16) (name : Bytes) {s : State} : Effect (.start op name) s (rejectCommand 0x01 s)
  | clearRejected {s : State} : Effect .clear s (rejectCommand 0x02 s)
  | reservedRejected (tag : Byte) {s : State} : Effect (.reservedHost tag) s (rejectCommand tag s)
  /-- R456, every check passed -/
  | started (op : U16) (name : Bytes) {s : State} (hf : s.fsm = .idle ∨ s.fsm = .done ∨ s.fsm = .aborted)
      (hop : op = 1 ∨ op = 2) (hz : hasNul name = false) (hl : name.length ≤ s.cfg.maxName.val) :
      Effect (.start op name) s (emit (.fopen (openDir op) name)
        { clearSession s with
            op := opRegister op, name := s.name.write 0 name, namelen := BitVec.ofNat 16 name.length, fsm := .opening })
  /-- R457, a check failed -/
  | startFailed (op : U16) (name : Bytes) {s : State} (r : Reason)
      (hf : s.fsm = .idle ∨ s.fsm = .done ∨ s.fsm = .aborted) (hr : r = .inputBadOp ∨ r = .inputBadName) :
      Effect (.start op name) s (abort r { clearSession s with op := opRegister op })
  /-- R460 -/
  | cleared {s : State} (hf : s.fsm = .done ∨ s.fsm = .aborted) : Effect .clear s (returnToIdle s)
  /-- R458, the open failed -/
  | openFailed {s : State} (hf : s.fsm = .opening) : Effect (.fopenResp false) s (abort .inputFileOpen s)
  /-- R458, the request is sent -/
  | requestSent {s : State} (req : Bytes) (hf : s.fsm = .opening) (hl : req.length ≤ dgramMax) (hop : s.op = 1 ∨ s.op = 2)
      (hn : req = requestBytes (s.op.setWidth 16) (s.bytesAt .name 0 s.namelen.toNat) modeString) :
      Effect (.fopenResp true) s
        { putTx req { s with fileOpen := true } with fsm := if s.op = 1 then .dlAwaitFirst else .ulAwaitGrant }
  /-- R502, R551, R556 -/
  | serverErrorTaken {i : Instr} (d : Bytes) (code : U16) {s : State} (hi : datagramOf i = some d)
      (hf : receiving s.fsm = true) (hv : decodeDatagram d = .error code) :
      Effect i s (serverError code (consume d s))
  /-- R503 -/
  | accepted {i : Instr} (p : Bytes) {s : State} (hi : datagramOf i = some (dataBytes s.block p))
      (hf : s.fsm = .dlAwaitFirst ∨ s.fsm = .dlAwaitNext) (hl : p.length ≤ payloadMax) :
      Effect i s (emit (.fappend p)
        { consume (dataBytes s.block p) s with last := finalUnit (4 + p.length), fsm := .dlWriting })
  /-- R504, R505 -/
  | ignored {i : Instr} (d : Bytes) {s : State} (hi : datagramOf i = some d)
      (hf : s.fsm = .dlAwaitFirst ∨ s.fsm = .dlAwaitNext) : Effect i s (consume d s)
  /-- R552 -/
  | granted {i : Instr} (d : Bytes) {s : State} (hi : datagramOf i = some d) (hf : s.fsm = .ulAwaitGrant) :
      Effect i s (requestBlock (consume d s))
  /-- R555 -/
  | acked {i : Instr} {s : State} (hi : datagramOf i = some (ackBytes s.block)) (hf : s.fsm = .ulAwaitAck) :
      Effect i s (requestBlock { consume (ackBytes s.block) s with block := s.block + 1 })
  /-- R557 -/
  | outOfSequence {i : Instr} (d : Bytes) {s : State} (hi : datagramOf i = some d) (hf : s.fsm = .ulAwaitAck) :
      Effect i s (abort .sequence (consume d s))
  /-- R507 -/
  | appendFailed {s : State} (hf : s.fsm = .dlWriting) : Effect (.fappendResp false) s (abort .fileIo s)
  /-- R506, the final unit -/
  | finalAcked {s : State} (hf : s.fsm = .dlWriting) (hl : s.last = true) :
      Effect (.fappendResp true) s (finish { putTx (ackBytes s.block) s with block := s.block + 1 })
  /-- R506, another unit to come -/
  | unitAcked {s : State} (hf : s.fsm = .dlWriting) (hl : s.last = false) :
      Effect (.fappendResp true) s { putTx (ackBytes s.block) s with block := s.block + 1, fsm := .dlAwaitNext }
  /-- R554 -/
  | readFailed (ok : Bool) (data : Bytes) {s : State} (hf : s.fsm = .ulSending) :
      Effect (.freadResp ok data) s (abort .fileIo s)
  /-- R553, the final unit -/
  | finalSent (data : Bytes) {s : State} (hf : s.fsm = .ulSending) (hl : data.length < payloadMax) :
      Effect (.freadResp true data) s (finish (putTx (dataBytes s.block data) s))
  /-- R553, an Ack is awaited -/
  | unitSent (data : Bytes) {s : State} (hf : s.fsm = .ulSending) (hl : data.length = payloadMax) :
      Effect (.freadResp true data) s { putTx (dataBytes s.block data) s with fsm := .ulAwaitAck }
  /-- R603 -/
  | timedOut {s : State} (hf : guarded s.cfg s.fsm = true) : Effect .timeout s (abort .timeout s)
  /-- R112, R454 -/
  | txEmitted (b : Bytes) {s : State} (hl : b.length ≤ dgramMax) : Effect (.tx b) s (putTx b s)
  /-- R14, R454 -/
  | emitted {i : Instr} (e : OutEvent) {s : State} (hi : isOutput i = true) (he : ∀ b, e ≠ .tx b) : Effect i s (emit e s)

/-- R452's RX column, by state. -/
theorem row_rx (s : State) :
    (s.row.rx = .download ∧ (s.fsm = .dlAwaitFirst ∨ s.fsm = .dlAwaitNext)) ∨
    (s.row.rx = .grant ∧ s.fsm = .ulAwaitGrant) ∨ (s.row.rx = .ack ∧ s.fsm = .ulAwaitAck) ∨
    (s.row.rx = .noStep ∧ receiving s.fsm = false) := by
  unfold State.row
  cases s.fsm <;> simp [dispatchRow, receiving]

theorem row_start (s : State) :
    (s.row.start = .run ∧ (s.fsm = .idle ∨ s.fsm = .done ∨ s.fsm = .aborted)) ∨ s.row.start = .reject ∨
    (s.row.start = .noStep ∧ s.fsm.legal = false) := by
  unfold State.row
  cases s.fsm <;> simp [dispatchRow, FsmState.legal]

theorem row_clear (s : State) :
    (s.row.clear = .run ∧ (s.fsm = .done ∨ s.fsm = .aborted)) ∨ s.row.clear = .reject ∨
    (s.row.clear = .noStep ∧ s.fsm.legal = false) := by
  unfold State.row
  cases s.fsm <;> simp [dispatchRow, FsmState.legal]

theorem row_readStatus (s : State) :
    s.row.readStatus = .run ∨ (s.row.readStatus = .noStep ∧ s.fsm.legal = false) := by
  unfold State.row
  cases s.fsm <;> simp [dispatchRow, FsmState.legal]

theorem row_reservedHost (s : State) :
    s.row.reservedHost = .reject ∨ (s.row.reservedHost = .noStep ∧ s.fsm.legal = false) := by
  unfold State.row
  cases s.fsm <;> simp [dispatchRow, FsmState.legal]

@[simp] theorem row_timeout (s : State) : s.row.timeout = guarded s.cfg s.fsm := by
  unfold State.row
  cases s.fsm <;> rfl

@[simp] theorem row_fopenResp (s : State) : s.row.fopenResp = decide (s.fsm = .opening) := by
  unfold State.row
  cases s.fsm <;> rfl

@[simp] theorem row_fappendResp (s : State) : s.row.fappendResp = decide (s.fsm = .dlWriting) := by
  unfold State.row
  cases s.fsm <;> rfl

@[simp] theorem row_freadResp (s : State) : s.row.freadResp = decide (s.fsm = .ulSending) := by
  unfold State.row
  cases s.fsm <;> rfl

/-- A datagram row and RX run one rule, on the datagram they deliver. -/
theorem exec_datagram {i : Instr} {d : Bytes} (h : datagramOf i = some d) (s : State) : exec i s = receive d s := by
  cases i <;> cases h <;> rfl

theorem enabled_datagram {i : Instr} {d : Bytes} (h : datagramOf i = some d) (cfg : Config) (f : FsmState) :
    enabled cfg f i = receiving f := by
  cases i <;> cases h <;> rfl

theorem receive_effect {i : Instr} {d : Bytes} (hi : datagramOf i = some d) {s t : State}
    (h : receive d s = .next t) : Effect i s t := by
  unfold receive at h
  rcases row_rx s with ⟨hr, hf⟩ | ⟨hr, hf⟩ | ⟨hr, hf⟩ | ⟨hr, hf⟩ <;> rw [hr] at h <;> simp only at h
  · have hf' : receiving s.fsm = true := by rcases hf with hf | hf <;> rw [hf] <;> rfl
    rcases downloadReceive_cases d s with ⟨code, hv, e⟩ | ⟨p, rfl, hp, e⟩ | ⟨-, -, e⟩ <;> rw [e] at h <;> cases h
    · exact .serverErrorTaken d code hi hf' hv
    · exact .accepted p hi hf hp
    · exact .ignored d hi hf
  · rcases grantReceive_cases d s with ⟨code, hv, e⟩ | ⟨-, e⟩ <;> rw [e] at h <;> cases h
    · exact .serverErrorTaken d code hi (by rw [hf]; rfl) hv
    · exact .granted d hi hf
  · rcases ackReceive_cases d s with ⟨code, hv, e⟩ | ⟨rfl, e⟩ | ⟨-, -, e⟩ <;> rw [e] at h <;> cases h
    · exact .serverErrorTaken d code hi (by rw [hf]; rfl) hv
    · exact .acked hi hf
    · exact .outOfSequence d hi hf
  · cases h
    exact .noStep (by rw [enabled_datagram hi]; exact hf)

/-- The inversion of `exec`: a next state is one that some rule gives. -/
theorem exec_effect {i : Instr} {s t : State} (h : exec i s = .next t) : Effect i s t := by
  cases i with
  | rrq f m => exact receive_effect rfl h
  | wrq f m => exact receive_effect rfl h
  | data b p => exact receive_effect rfl h
  | ack b => exact receive_effect rfl h
  | error c m => exact receive_effect rfl h
  | unrecognized d => exact receive_effect rfl h
  | rx d => exact receive_effect rfl h
  | start op name =>
    simp only [exec, execStart] at h
    rcases row_start s with ⟨hr, hf⟩ | hr | ⟨hr, hf⟩ <;> rw [hr] at h <;> cases h
    · unfold startSession
      cases hv : validate s.cfg op name with
      | none =>
        obtain ⟨h1, h2, h3⟩ := validate_eq_none.1 hv
        exact .started op name hf h1 h2 h3
      | some r =>
        refine .startFailed op name r hf ?_
        rcases validate_eq_some hv with ⟨h1, -⟩ | ⟨h1, -⟩
        · exact .inl h1
        · exact .inr h1
    · exact .startRejected op name
    · refine .noStep ?_
      unfold State.row at hr
      simp [enabled, hr]
  | clear =>
    simp only [exec, execClear] at h
    rcases row_clear s with ⟨hr, hf⟩ | hr | ⟨hr, hf⟩ <;> rw [hr] at h <;> cases h
    · exact .cleared hf
    · exact .clearRejected
    · refine .noStep ?_
      unfold State.row at hr
      simp [enabled, hr]
  | readStatus n =>
    simp only [exec, execReadStatus] at h
    rcases row_readStatus s with hr | ⟨hr, hf⟩ <;> rw [hr] at h <;> cases h
    · exact .answered n
    · refine .noStep ?_
      unfold State.row at hr
      simp [enabled, hr]
  | reservedHost tag =>
    simp only [exec, execReservedHost] at h
    rcases row_reservedHost s with hr | ⟨hr, hf⟩ <;> rw [hr] at h <;> cases h
    · exact .reservedRejected tag
    · refine .noStep ?_
      unfold State.row at hr
      simp [enabled, hr]
  | timeout =>
    simp only [exec, execTimeout, row_timeout] at h
    cases hg : guarded s.cfg s.fsm <;> rw [hg] at h <;> cases h
    · refine .noStep ?_
      have := row_timeout s
      unfold State.row at this
      simp [enabled, this, hg]
    · exact .timedOut hg
  | fopenResp ok =>
    simp only [exec, execFopenResp, row_fopenResp] at h
    by_cases hf : s.fsm = .opening
    · simp only [hf, decide_true] at h
      cases ok with
      | false => cases h; exact .openFailed hf
      | true =>
        obtain ⟨req, hl, hop, hn, rfl⟩ := sendRequest_eq_next h
        exact .requestSent req hf hl hop hn
    · simp only [hf, decide_false] at h
      cases h
      refine .noStep ?_
      have := row_fopenResp s
      unfold State.row at this
      simp [enabled, this, hf]
  | fappendResp ok =>
    simp only [exec, execFappendResp, row_fappendResp] at h
    by_cases hf : s.fsm = .dlWriting
    · simp only [hf, decide_true] at h
      cases ok with
      | false => cases h; exact .appendFailed hf
      | true =>
        simp only [if_true, appended_eq] at h
        cases hl : s.last <;> rw [hl] at h <;> cases h
        · exact .unitAcked hf hl
        · exact .finalAcked hf hl
    · simp only [hf, decide_false] at h
      cases h
      refine .noStep ?_
      have := row_fappendResp s
      unfold State.row at this
      simp [enabled, this, hf]
  | freadResp ok data =>
    simp only [exec, execFreadResp, row_freadResp] at h
    by_cases hf : s.fsm = .ulSending
    · simp only [hf, decide_true] at h
      split at h
      · cases h; exact .readFailed ok data hf
      · rename_i hc
        have hok : ok = true := by cases ok <;> simp_all
        have hl : data.length ≤ payloadMax := by
          rcases Nat.lt_or_ge payloadMax data.length with hlt | hge
          · simp [hok, hlt] at hc
          · exact hge
        subst hok
        rw [sendBlock_eq hl] at h
        by_cases hfin : data.length < payloadMax
        · rw [if_pos hfin] at h; cases h
          exact .finalSent data hf hfin
        · rw [if_neg hfin] at h; cases h
          exact .unitSent data hf (by omega)
    · simp only [hf, decide_false] at h
      cases h
      refine .noStep ?_
      have := row_freadResp s
      unfold State.row at this
      simp [enabled, this, hf]
  | tx b =>
    simp only [exec, execTx] at h
    obtain ⟨u, hu, h⟩ := orFault_eq_next h
    obtain ⟨hl, rfl⟩ := emitTx_eq_ok hu
    cases h
    exact .txEmitted b hl
  | fopen dir name => cases h; exact .emitted _ rfl (by simp)
  | fappend p => cases h; exact .emitted _ rfl (by simp)
  | fread => cases h; exact .emitted _ rfl (by simp)
  | fclose => cases h; exact .emitted _ rfl (by simp)
  | endSession o r c x => cases h; exact .emitted _ rfl (by simp)
  | status v => cases h; exact .emitted _ rfl (by simp)
  | reject tag => cases h; exact .emitted _ rfl (by simp)

/-- No instruction draws a free value or changes a parameter: only reset does the one, and nothing the other. -/
theorem exec_draws {i : Instr} {s t : State} (h : exec i s = .next t) : t.draws = s.draws := by
  cases exec_effect h <;> simp

theorem exec_cfg {i : Instr} {s t : State} (h : exec i s = .next t) : t.cfg = s.cfg := by
  cases exec_effect h <;> simp

/-- R108 in every legal state but `IDLE`, where CLEAR leaves `REASON` as it was (R460). -/
theorem reason_ne_none_iff_aborted {s : State} (h : EngineInv s) (hi : s.fsm ≠ .idle) : s.reason ≠ .none ↔ s.fsm = .aborted := by
  refine ⟨fun hr => ?_, h.reasonAborted⟩
  have hn : ¬ (s.fsm.running = true ∨ s.fsm = .done) := fun hc => hr (h.reasonRunning hc)
  have hl := h.legal
  cases hf : s.fsm <;> simp_all [FsmState.running, FsmState.downloading, FsmState.uploading, FsmState.legal]

/-- R108, R456, R611, R612: `REASON` is kept, or cleared, or set by a step that enters `ABORTED`. -/
theorem exec_reason {i : Instr} {s t : State} (h : exec i s = .next t) :
    t.reason = s.reason ∨ t.reason = .none ∨ t.fsm = .aborted := by
  cases exec_effect h <;> simp

/-- R460: CLEAR is the only instruction that leaves `ABORTED` with `REASON` kept, and it goes to `IDLE`. -/
theorem aborted_left {i : Instr} {s t : State} (h : exec i s = .next t) (hs : s.fsm = .aborted) (ht : t.fsm ≠ .aborted) :
    (i = .clear ∧ t = returnToIdle s) ∨ t.reason = .none := by
  cases exec_effect h <;> simp_all [receiving, guarded]

end Sys2Proof.Machine
end

