-- ==== Sys2Proof/Laws/Hangs.lean ====
section
/-! SUPPORT. The three hangs of 70_reset_and_hazards.md R708, which Safety.lean's `hangOf` lists: in each, only the event named
there moves the engine on. -/

namespace Sys2Proof.Machine

/-- Whether an instruction is the answer to the file request a state waits for (R452). -/
def answersFile : FsmState → Instr → Bool
  | .opening, .fopenResp _ => true
  | .dlWriting, .fappendResp _ => true
  | .ulSending, .freadResp _ _ => true
  | _, _ => false

theorem hangOf_eq_filePort {cfg : Config} {f : FsmState} :
    hangOf cfg f = some .filePort ↔ f = .opening ∨ f = .dlWriting ∨ f = .ulSending := by
  cases f <;> simp [hangOf]

theorem hangOf_eq_unguardedGrant {cfg : Config} {f : FsmState} :
    hangOf cfg f = some .unguardedGrant ↔ f = .ulAwaitGrant ∧ cfg.grantGuarded = false := by
  cases f <;> simp [hangOf]

theorem hangOf_eq_ignoredTraffic {cfg : Config} {f : FsmState} :
    hangOf cfg f = some .ignoredTraffic ↔ (f = .dlAwaitFirst ∨ f = .dlAwaitNext) ∧ cfg.timerRearm = .everyReceive := by
  cases f <;> simp [hangOf]

/-- R708 (a), (b): no timeout ends these two. -/
theorem no_timeout_in_hang {s : State} (h : hangOf s.cfg s.fsm = some .filePort ∨ hangOf s.cfg s.fsm = some .unguardedGrant) :
    exec .timeout s = .next s := by
  have hg : guarded s.cfg s.fsm = false := by
    rcases h with h | h
    · rcases hangOf_eq_filePort.1 h with h | h | h <;> rw [h] <;> rfl
    · obtain ⟨h1, h2⟩ := hangOf_eq_unguardedGrant.1 h
      rw [h1]; exact h2
  simp only [exec, execTimeout, row_timeout, hg]

/-- R708 (a): a wait for the file port is left only by its own answer. -/
theorem filePort_hang_left {i : Instr} {s t : State} (hh : hangOf s.cfg s.fsm = some .filePort) (h : exec i s = .next t)
    (hf : t.fsm ≠ s.fsm) : answersFile s.fsm i = true := by
  rcases hangOf_eq_filePort.1 hh with hw | hw | hw <;>
    have hr : receiving s.fsm = false := by rw [hw]; rfl
  all_goals
    have hg : guarded s.cfg s.fsm = false := by rw [hw]; rfl
    cases exec_effect h <;> simp_all [answersFile]

/-- R708 (b): the unguarded grant wait is left only by a datagram. -/
theorem unguardedGrant_hang_left {i : Instr} {s t : State} (hh : hangOf s.cfg s.fsm = some .unguardedGrant)
    (h : exec i s = .next t) (hf : t.fsm ≠ s.fsm) : ∃ d, datagramOf i = some d := by
  obtain ⟨hw, hc⟩ := hangOf_eq_unguardedGrant.1 hh
  have hg : guarded s.cfg s.fsm = false := by rw [hw]; exact hc
  cases exec_effect h <;> simp_all

/-- R708 (c): a datagram that a download ignores keeps it in its wait. -/
theorem ignored_keeps_wait {d : Bytes} {s : State} (hf : s.fsm = .dlAwaitFirst ∨ s.fsm = .dlAwaitNext)
    (he : ∀ code, decodeDatagram d ≠ .error code) (hd : ∀ p, p.length ≤ payloadMax → d ≠ dataBytes s.block p) :
    exec (.rx d) s = .next (consume d s) ∧ (consume d s).fsm = s.fsm := by
  refine ⟨?_, rfl⟩
  have hr : s.row.rx = .download := by unfold State.row; rcases hf with h | h <;> rw [h] <;> rfl
  simp only [exec, execRx, receive, hr]
  rcases downloadReceive_cases d s with ⟨code, hv, -⟩ | ⟨p, hp, hl, -⟩ | ⟨-, -, e⟩
  · exact absurd hv (he code)
  · exact absurd hp (hd p hl)
  · exact e

end Sys2Proof.Machine
end

