-- ==== Sys2Proof/Laws/PerInstr.lean ====
section
/-! SUPPORT. The family `TableRow`: the encoding of every instruction carries the fixed bits opcode_table.json gives its row. -/

namespace Sys2Proof.Laws

open Machine

/-- The fixed first bytes of each row of opcode_table.json: a 16-bit match as its two bytes, most significant first (R202), an
8-bit match as its byte, nothing for a row whose mask is 0. -/
def TableRow.fixed : Instr → Bytes
  | .rrq _ _ => [0x00, 0x01]
  | .wrq _ _ => [0x00, 0x02]
  | .data _ _ => [0x00, 0x03]
  | .ack _ => [0x00, 0x04]
  | .error _ _ => [0x00, 0x05]
  | .unrecognized _ => []
  | .start _ _ => [0x01]
  | .clear => [0x02]
  | .readStatus _ => [0x03]
  | .rx _ => [0x10]
  | .timeout => [0x20]
  | .fopenResp _ => [0x30]
  | .fappendResp _ => [0x31]
  | .freadResp _ _ => [0x32]
  | .reservedHost _ => []
  | .tx _ => [0x80]
  | .fopen _ _ => [0x90]
  | .fappend _ => [0x91]
  | .fread => [0x92]
  | .fclose => [0x93]
  | .endSession _ _ _ _ => [0xA0]
  | .status _ => [0xA1]
  | .reject _ => [0xA2]

def TableRow.Statement (i : Instr) : Prop := (encode i).take (TableRow.fixed i).length = TableRow.fixed i

namespace TableRow

theorem rrq (filename mode : Bytes) : Statement (.rrq filename mode) := rfl
theorem wrq (filename mode : Bytes) : Statement (.wrq filename mode) := rfl
theorem data (block : U16) (payload : Bytes) : Statement (.data block payload) := rfl
theorem ack (block : U16) : Statement (.ack block) := rfl
theorem error (code : U16) (message : Bytes) : Statement (.error code message) := rfl
theorem unrecognized (d : Bytes) : Statement (.unrecognized d) := rfl
theorem start (op : U16) (name : Bytes) : Statement (.start op name) := rfl
theorem clear : Statement .clear := rfl
theorem readStatus (n : U16) : Statement (.readStatus n) := rfl
theorem rx (d : Bytes) : Statement (.rx d) := rfl
theorem timeout : Statement .timeout := rfl
theorem fopenResp (ok : Bool) : Statement (.fopenResp ok) := rfl
theorem fappendResp (ok : Bool) : Statement (.fappendResp ok) := rfl
theorem freadResp (ok : Bool) (data : Bytes) : Statement (.freadResp ok data) := rfl
theorem reservedHost (tag : Byte) : Statement (.reservedHost tag) := rfl
theorem tx (b : Bytes) : Statement (.tx b) := rfl
theorem fopen (dir : Dir) (name : Bytes) : Statement (.fopen dir name) := rfl
theorem fappend (p : Bytes) : Statement (.fappend p) := rfl
theorem fread : Statement .fread := rfl
theorem fclose : Statement .fclose := rfl
theorem endSession (outcome : SessionOutcome) (reason : Reason) (errcode : U16) (erridx : BitVec 3) :
    Statement (.endSession outcome reason errcode erridx) := rfl
theorem status (v : U16) : Statement (.status v) := rfl
theorem reject (tag : Byte) : Statement (.reject tag) := rfl

end TableRow

end Sys2Proof.Laws
end

