-- ==== Sys2Proof/Machine/Trace.lean ====
section
/-! DEFINITION. The trace syntax, 30_encoding.md R313: one event a line, `>` for an input and `<` for an output, byte strings as
two-digit hexadecimal bytes, names as quoted ASCII. -/

namespace Sys2Proof.Machine

/-- One hexadecimal digit, in capitals as R313 writes it. -/
def hexDigit (n : Nat) : Char := if n < 10 then Char.ofNat (48 + n) else Char.ofNat (55 + n)

/-- A value as `digits` hexadecimal digits. -/
def hexDigits : Nat → Nat → List Char
  | 0, _ => []
  | digits + 1, v => hexDigits digits (v / 16) ++ [hexDigit (v % 16)]

def hexByte (b : Byte) : String := String.ofList (hexDigits 2 b.toNat)

/-- R313: space-separated two-digit hexadecimal bytes. -/
def hexString (bs : Bytes) : String := " ".intercalate (bs.map hexByte)

/-- A printable ASCII byte other than the double quote. -/
def plainByte (b : Byte) : Bool := decide (32 ≤ b.toNat) && decide (b.toNat < 127) && decide (b.toNat ≠ 34)

/-- R313: a name as a double-quoted ASCII string; a name with another byte in it as its bytes (log 20). -/
def nameString (name : Bytes) : String :=
  if name.all plainByte then "\"" ++ String.ofList (name.map fun b => Char.ofNat b.toNat) ++ "\""
  else hexString name

def decimal (n : Nat) : String := String.ofList (Nat.toDigits 10 n)

def flagString (ok : Bool) : String := if ok then "1" else "0"

def dirString : Dir → String
  | .write => "WRITE"
  | .read => "READ"

def outcomeString : SessionOutcome → String
  | .success => "SUCCESS"
  | .failed => "FAILED"

/-- A word and its byte string, with no space after the word when the string is empty. -/
def withBytes (word : String) (bs : Bytes) : String := if bs.isEmpty then word else word ++ " " ++ hexString bs

/-- R313: an output event's line. -/
def outputLine : OutEvent → String
  | .tx b => withBytes "< TX" b
  | .fopen dir name => "< FOPEN dir=" ++ dirString dir ++ " name=" ++ nameString name
  | .fappend p => withBytes "< FAPPEND" p
  | .fread n => "< FREAD n=" ++ decimal n
  | .fclose => "< FCLOSE"
  | .endSession outcome reason errcode index =>
    "< END outcome=" ++ outcomeString outcome ++ " reason=" ++ decimal reason.code.toNat
      ++ " errcode=" ++ decimal errcode.toNat ++ " erridx=" ++ decimal index.toNat
  | .status v => "< STATUS v=0x" ++ String.ofList (hexDigits 4 v.toNat)
  | .reject tag => "< REJECT tag=0x" ++ hexByte tag

/-- R313: an instruction's line. A datagram row is the `RX` of its bytes (log 7); a reserved host command has no syntax in the
source and is written as its tag (log 20). -/
def traceLine : Instr → String
  | .rrq f m => withBytes "> RX" (encode (.rrq f m))
  | .wrq f m => withBytes "> RX" (encode (.wrq f m))
  | .data block p => withBytes "> RX" (encode (.data block p))
  | .ack block => withBytes "> RX" (encode (.ack block))
  | .error code t => withBytes "> RX" (encode (.error code t))
  | .unrecognized d => withBytes "> RX" d
  | .start op name => "> START op=" ++ decimal op.toNat ++ " name=" ++ nameString name
  | .clear => "> CLEAR"
  | .readStatus n => "> READ_STATUS n=" ++ decimal n.toNat
  | .rx d => withBytes "> RX" d
  | .timeout => "> TIMEOUT"
  | .fopenResp ok => "> FOPEN_RESP ok=" ++ flagString ok
  | .fappendResp ok => "> FAPPEND_RESP ok=" ++ flagString ok
  | .freadResp ok data => "> FREAD_RESP ok=" ++ flagString ok ++ " data=" ++ hexString data
  | .reservedHost tag => "> HOST tag=0x" ++ hexByte tag
  | .tx b => outputLine (.tx b)
  | .fopen dir name => outputLine (.fopen dir name)
  | .fappend p => outputLine (.fappend p)
  | .fread => outputLine (.fread payloadMax)
  | .fclose => outputLine .fclose
  | .endSession outcome reason errcode index => outputLine (.endSession outcome reason errcode index)
  | .status v => outputLine (.status v)
  | .reject tag => outputLine (.reject tag)

end Sys2Proof.Machine
end

