-- ==== Sys2Proof/Tests/Slice0.lean ====
section
/-! SUPPORT. The model's own tests, each one step or one decode, its expected result from the vector of
spec/95_test_vectors.md (or the rule) named in its comment; and a witness for every obligation that has hypotheses. -/

namespace Sys2Proof.Tests

open Machine Slice0

/-! ### Well-formedness: each check refuses an ill-formed term -/

-- R302
theorem test_wf_rrq_nul : (Instr.rrq [0x61, 0x00] modeString).wf = false := by decide
theorem test_wf_wrq_mode_nul : (Instr.wrq [0x61] [0x00]).wf = false := by decide
-- R303, C16: 512 bytes of payload, no more
theorem test_wf_data_longest (p : Bytes) (h : p.length = 512) : (Instr.data 1 p).wf = true := by simp [Instr.wf, h]
theorem test_wf_data_length (p : Bytes) (h : p.length = 513) : (Instr.data 1 p).wf = false := by simp [Instr.wf, h]
-- R308: a datagram that is another row
theorem test_wf_unrecognized_ack : (Instr.unrecognized [0x00, 0x04, 0x00, 0x01]).wf = false := by decide
theorem test_wf_unrecognized_rrq : (Instr.unrecognized [0x00, 0x01, 0x00, 0x00]).wf = false := by decide
-- R311: the tags of the three commands are not reserved
theorem test_wf_reservedHost :
    [0x00, 0x01, 0x02, 0x03, 0x04, 0xFF].map (fun t => (Instr.reservedHost t).wf) = [true, false, false, false, true, true] := by
  decide
-- R112
theorem test_wf_tx (b : Bytes) (h : b.length = 517) : (Instr.tx b).wf = false := by simp [Instr.wf, h]
-- R312
theorem test_wf_fappend (p : Bytes) (h : p.length = 513) : (Instr.fappend p).wf = false := by simp [Instr.wf, h]
-- R211: 65535 bytes, no more
theorem test_wf_rx_longest (d : Bytes) (h : d.length = 65536) : (Instr.rx d).wf = false := by simp [Instr.wf, h]
theorem test_wf_error_longest (d : Bytes) (h : d.length = 65532) : (Instr.error 0 d).wf = false := by
  simp [Instr.wf, h, rxMax, hdrLen]
theorem test_wf_rrq_longest (d : Bytes) (h : d.length = 65532) : (Instr.rrq d []).wf = false := by simp [Instr.wf, h]
theorem test_wf_unrecognized_longest (d : Bytes) (h : d.length = 65536) : (Instr.unrecognized d).wf = false := by
  simp [Instr.wf, h]

/-! ### Decoding: every row by a word written out from R301 to R305, R311, R312 -/

-- C40
theorem test_decode_rrq : decode .wire [0x00, 0x01, 0x61, 0x2E, 0x74, 0x78, 0x74, 0x00, 0x6F, 0x63, 0x74, 0x65, 0x74, 0x00] =
    .ok (.rrq [0x61, 0x2E, 0x74, 0x78, 0x74] [0x6F, 0x63, 0x74, 0x65, 0x74]) := by decide
-- C41
theorem test_decode_wrq : decode .wire [0x00, 0x02, 0x66, 0x00, 0x6F, 0x63, 0x74, 0x65, 0x74, 0x00] =
    .ok (.wrq [0x66] [0x6F, 0x63, 0x74, 0x65, 0x74]) := by decide
-- C35, C34
theorem test_decode_data : decode .wire [0x00, 0x03, 0x00, 0x01, 0x68, 0x69] = .ok (.data 1 [0x68, 0x69]) := by decide
theorem test_decode_data_empty : decode .wire [0x00, 0x03, 0x00, 0x01] = .ok (.data 1 []) := by decide
-- C39, C43, C44
theorem test_decode_ack : decode .wire [0x00, 0x04, 0xFF, 0xFF] = .ok (.ack 65535) := by decide
theorem test_decode_ack_length : decode .wire [0x00, 0x04, 0x00] = .ok (.unrecognized [0x00, 0x04, 0x00]) ∧
    decode .wire [0x00, 0x04, 0x00, 0x01, 0x00] = .ok (.unrecognized [0x00, 0x04, 0x00, 0x01, 0x00]) := by decide
-- C46, C45
theorem test_decode_error : decode .wire [0x00, 0x05, 0x00, 0x01, 0x4E, 0x6F, 0x00] = .ok (.error 1 [0x4E, 0x6F, 0x00]) := by
  decide
theorem test_decode_error_bare : decode .wire [0x00, 0x05, 0x00, 0x01] = .ok (.error 1 []) := by decide
-- C54, C60
theorem test_decode_unrecognized : decode .wire [0x03, 0x00, 0x00, 0x01] = .ok (.unrecognized [0x03, 0x00, 0x00, 0x01]) := by
  decide
theorem test_decode_trailing_request : decode .wire [0x00, 0x02, 0x61, 0x00, 0x62, 0x00, 0x00] =
    .ok (.unrecognized [0x00, 0x02, 0x61, 0x00, 0x62, 0x00, 0x00]) := by decide
-- C36, C37: 512 bytes of payload and 513
theorem test_decode_data_longest (p : Bytes) (h : p.length = 512) :
    decodeDatagram ([0x00, 0x03, 0x12, 0x34] ++ p) = .data 0x1234 4 512 := by
  simp [decodeDatagram, decodeData, be16, h, hdrLen, dgramMax]
theorem test_decode_data_oversized (p : Bytes) (h : p.length = 513) :
    decodeDatagram ([0x00, 0x03, 0x00, 0x01] ++ p) = .unrecognized := by
  simp [decodeDatagram, decodeData, be16, h, hdrLen, dgramMax]
-- R311
theorem test_decode_host : decode .host [0x01, 0x00, 0x02, 0x66] = .ok (.start 2 [0x66]) ∧
    decode .host [0x02] = .ok .clear ∧ decode .host [0x03, 0x01, 0x02] = .ok (.readStatus 0x0102) ∧
    decode .host [0x00] = .ok (.reservedHost 0x00) ∧ decode .host [0x04] = .ok (.reservedHost 0x04) ∧
    decode .host [0x10] = .ok (.reservedHost 0x10) ∧ decode .host [0xFF] = .ok (.reservedHost 0xFF) := by decide
theorem test_decode_ports : decode .channel [0x10] = .ok (.rx []) ∧ decode .guard [0x20] = .ok .timeout ∧
    decode .file [0x30, 0x01] = .ok (.fopenResp true) ∧ decode .file [0x31, 0x00] = .ok (.fappendResp false) ∧
    decode .file [0x32, 0x01, 0x68] = .ok (.freadResp true [0x68]) := by decide
-- R312
theorem test_decode_outputs : decode .channelOut [0x80, 0xFF] = .ok (.tx [0xFF]) ∧
    decode .fileOut [0x90, 0x01, 0x66] = .ok (.fopen .read [0x66]) ∧ decode .fileOut [0x91, 0x68] = .ok (.fappend [0x68]) ∧
    decode .fileOut [0x92] = .ok .fread ∧ decode .fileOut [0x93] = .ok .fclose ∧
    decode .hostOut [0xA0, 0x01, 0x04, 0x00, 0x09, 0x00] = .ok (.endSession .failed .serverError 9 0) ∧
    decode .hostOut [0xA1, 0x00, 0x0E] = .ok (.status 14) ∧ decode .hostOut [0xA2, 0x07] = .ok (.reject 0x07) := by decide
-- R312, the tag and port columns
theorem test_output_columns : [OutEvent.tx [], .fopen .write [], .fappend [], .fread 512, .fclose,
      .endSession .success .none 0 0, .status 0, .reject 0].map (fun e => (e.tag, e.port)) =
    [(0x80, .channelOut), (0x90, .fileOut), (0x91, .fileOut), (0x92, .fileOut), (0x93, .fileOut), (0xA0, .hostOut),
      (0xA1, .hostOut), (0xA2, .hostOut)] := by decide
theorem test_decode_output_wrongPort : decode .channelOut [0x90, 0x01] = .error (.wrongPort 0x90) ∧
    decode .fileOut [0xA1, 0x00, 0x00] = .error (.wrongPort 0xA1) ∧ decode .hostOut [0x80] = .error (.wrongPort 0x80) := by
  decide
-- R311: "no other tag can arrive on the other ports"; log 9
theorem test_decode_refused : decode .file [0x20] = .error (.wrongPort 0x20) ∧ decode .guard [] = .error .emptyFrame ∧
    decode .host [0x01, 0x00] = .error (.truncated 0x01) ∧ decode .host [0x02, 0x00] = .error (.trailingBytes 0x02) ∧
    decode .file [0x30, 0x02] = .error (.badOperand 0x30) := by decide
theorem test_decode_illFormed (p : Bytes) (h : p.length = 513) : decode .fileOut (0x91 :: p) = .error .illFormed := by
  simp [decode, parse, parseFileOut, Instr.wf, h]

/-- The 16-bit rows of opcode_table.json, in order. -/
theorem test_table_datagrams : [1, 2, 3, 4, 5, 0].map (decodeTableWord 16) =
    [some (.rrq [] []), some (.wrq [] []), some (.data 0 []), some (.ack 0), some (.error 0 []),
      some (.unrecognized [0x00, 0x00, 0x00, 0x00])] := by decide
/-- The 8-bit rows, in order. -/
theorem test_table_inputs : [0x01, 0x02, 0x03, 0x10, 0x20, 0x30, 0x31, 0x32, 0x00].map (decodeTableWord 8) =
    [some (.start 0 []), some .clear, some (.readStatus 0), some (.rx []), some .timeout, some (.fopenResp false),
      some (.fappendResp false), some (.freadResp false []), some (.reservedHost 0x00)] := by decide
theorem test_table_outputs : [0x80, 0x90, 0x91, 0x92, 0x93, 0xA0, 0xA1, 0xA2].map (decodeTableWord 8) =
    [some (.tx []), some (.fopen .write []), some (.fappend []), some .fread, some .fclose,
      some (.endSession .success .none 0 0), some (.status 0), some (.reject 0x00)] := by decide

/-! ### The codec -/

-- C2, C7, C10, C11
theorem test_encode_request : encodeRequest 2 [0x66] modeString =
      .ok [0x00, 0x02, 0x66, 0x00, 0x6F, 0x63, 0x74, 0x65, 0x74, 0x00] ∧
    encodeRequest 3 [0x61, 0x00, 0x62] modeString = .error .badOp ∧
    encodeRequest 1 [0x61] [0x6F, 0x00] = .error .embeddedNul := by decide
-- C6
theorem modeString_length : modeString.length = 5 := rfl
theorem test_encode_request_long (f : Bytes) (h : f.length = 508) (hz : hasNul f = false) :
    encodeRequest 2 f modeString = .error .tooLong := by
  have hm : hasNul modeString = false := by decide
  simp [encodeRequest, requestBytes, put16, hz, hm, h, modeString_length, dgramMax]
-- C22, C25
theorem test_encode_error : encodeError 2 [0x4E, 0x6F] = .ok [0x00, 0x05, 0x00, 0x02, 0x4E, 0x6F, 0x00] ∧ encodeError 0 [0x61, 0x00] = .error .embeddedNul := by decide
-- E0, E7, E8, E10, E11
theorem test_erridx : [0, 7, 8, 0x0100, 0xFFFF].map erridx = [0, 7, 0, 0, 0] := by decide

/-! ### One step at a time -/

/-- A session state: the FSM state, `OP` and `BLOCK`, the file open. -/
def running (f : FsmState) (op : BitVec 2) (block : U16) : State :=
  { State.reset with fsm := f, op := op, block := block, fileOpen := true }

/-- The engine after START accepted `name` (S1, S2). -/
def opening (op : BitVec 2) (name : Bytes) : State :=
  { State.reset with
      fsm := .opening, op := op, block := 1, name := Memory.write [] 0 name, namelen := BitVec.ofNat 16 name.length }

/-- What `check` says of the next state; false if there is none. -/
def after (i : Instr) (s : State) (check : State → Bool) : Bool :=
  match exec i s with
  | .next t => check t
  | .fault _ => false
  | .refused _ => false

-- S1
theorem test_start : after (.start 1 [0x61, 0x2E, 0x74, 0x78, 0x74]) State.reset (fun t =>
    t.fsm == .opening && t.op == 1 && t.block == 1 && t.namelen == 5 &&
      t.outputs == [.fopen .write [0x61, 0x2E, 0x74, 0x78, 0x74]]) = true := by decide
-- S7: the op is checked before the NUL
theorem test_start_bad_op : after (.start 3 [0x61, 0x00]) State.reset (fun t =>
    t.fsm == .aborted && t.op == 0 && t.outputs == [.endSession .failed .inputBadOp 0 0]) = true := by decide
-- S18
theorem test_clear : after .clear { running .aborted 1 1 with reason := .timeout } (fun t =>
    t.fsm == .idle && t.reason == .timeout && t.outputs == []) = true := by decide
-- S17
theorem test_clear_rejected : after .clear (running .ulAwaitAck 2 1) (fun t =>
    t.fsm == .ulAwaitAck && t.outputs == [.reject 0x02]) = true := by decide
-- ST5, ST10, and 10_state.md R115
theorem test_readStatus_flags :
    after (.readStatus 6) (running .dlAwaitFirst 1 1) (fun t => t.outputs == [.status 1]) = true ∧
    after (.readStatus 6) { State.reset with fsm := .done, last := true } (fun t => t.outputs == [.status 2]) = true := by
  decide
-- ST8, ST9
theorem test_readStatus_reserved :
    after (.readStatus 10) (running .dlAwaitFirst 1 1) (fun t => t.outputs == [.status 0]) = true ∧
    after (.readStatus 0xFFFF) State.reset (fun t => t.outputs == [.status 0]) = true := by decide
-- S21
theorem test_reservedHost : after (.reservedHost 0x07) (running .dlWriting 1 1) (fun t =>
    t.fsm == .dlWriting && t.outputs == [.reject 0x07]) = true := by decide
-- S11
theorem test_fopenResp : after (.fopenResp true) (opening 2 [0x66]) (fun t =>
    t.fsm == .ulAwaitGrant && t.fileOpen && t.txlen == 10 &&
      t.outputs == [.tx [0x00, 0x02, 0x66, 0x00, 0x6F, 0x63, 0x74, 0x65, 0x74, 0x00]]) = true := by decide
-- S13
theorem test_fopenResp_failed : after (.fopenResp false) (opening 1 [0x66]) (fun t =>
    t.fsm == .aborted && t.outputs == [.endSession .failed .inputFileOpen 0 0]) = true := by decide
-- D3, D7
theorem test_data : after (.data 1 [0x68, 0x69]) (running .dlAwaitFirst 1 1) (fun t =>
    t.fsm == .dlWriting && t.last && t.rxlen == 6 && t.outputs == [.fappend [0x68, 0x69]]) = true := by decide
theorem test_data_duplicate : after (.data 1 [0x68, 0x69]) (running .dlAwaitNext 1 2) (fun t =>
    t.fsm == .dlAwaitNext && t.block == 2 && t.rxlen == 6 && t.outputs == []) = true := by decide
-- U15, U10
theorem test_ack_wraps : after (.ack 0xFFFF) (running .ulAwaitAck 2 0xFFFF) (fun t =>
    t.fsm == .ulSending && t.block == 0 && t.outputs == [.fread 512]) = true := by decide
theorem test_ack_mismatched : after (.ack 1) (running .ulAwaitAck 2 2) (fun t =>
    t.fsm == .aborted && t.block == 2 && t.outputs == [.fclose, .endSession .failed .sequence 0 0]) = true := by decide
-- D2, U4
theorem test_error : after (.error 9 [0x41, 0x00]) (running .dlAwaitNext 1 3) (fun t =>
    t.fsm == .aborted && t.errcode == 9 && t.block == 3 &&
      t.outputs == [.fclose, .endSession .failed .serverError 9 0]) = true := by decide
theorem test_error_grant : after (.error 6 [0x00]) (running .ulAwaitGrant 2 1) (fun t =>
    t.fsm == .aborted && t.outputs == [.fclose, .endSession .failed .serverError 6 6]) = true := by decide
-- D12
theorem test_rrq : after (.rrq [0x61] modeString) (running .dlAwaitFirst 1 1) (fun t =>
    t.fsm == .dlAwaitFirst && t.rxlen == 10 && t.outputs == []) = true := by decide
-- R552: any datagram but an Error is the grant
theorem test_wrq : after (.wrq [0x66] modeString) (running .ulAwaitGrant 2 1) (fun t =>
    t.fsm == .ulSending && t.outputs == [.fread 512]) = true := by decide
-- U11
theorem test_unrecognized : after (.unrecognized [0x00, 0x04, 0x00, 0x02, 0x00]) (running .ulAwaitAck 2 2) (fun t =>
    t.fsm == .aborted && t.outputs == [.fclose, .endSession .failed .sequence 0 0]) = true := by decide
-- U3, D10
theorem test_rx : after (.rx [0xFF]) (running .ulAwaitGrant 2 1) (fun t => t.fsm == .ulSending) = true := by decide
theorem test_rx_short : after (.rx [0xFF]) (running .dlAwaitFirst 1 1) (fun t =>
    t.fsm == .dlAwaitFirst && t.rxlen == 1 && t.rxbuf == [(0, 0xFF)] && t.outputs == []) = true := by decide
-- D14, D15
theorem test_fappendResp : after (.fappendResp true) { running .dlWriting 1 1 with last := true } (fun t =>
    t.fsm == .done && t.block == 2 &&
      t.outputs == [.tx [0x00, 0x04, 0x00, 0x01], .fclose, .endSession .success .none 0 0]) = true := by decide
theorem test_fappendResp_wraps : after (.fappendResp true) (running .dlWriting 1 0xFFFF) (fun t =>
    t.fsm == .dlAwaitNext && t.block == 0 && t.outputs == [.tx [0x00, 0x04, 0xFF, 0xFF]]) = true := by decide
-- U6, U9
theorem test_freadResp : after (.freadResp true []) (running .ulSending 2 2) (fun t =>
    t.fsm == .done && t.block == 2 &&
      t.outputs == [.tx [0x00, 0x03, 0x00, 0x02], .fclose, .endSession .success .none 0 0]) = true := by decide
theorem test_freadResp_oversized (data : Bytes) (h : data.length = 513) :
    after (.freadResp true data) (running .ulSending 2 1) (fun t =>
      t.fsm == .aborted && t.outputs == [.fclose, .endSession .failed .fileIo 0 0]) = true := by
  simp [after, exec, execFreadResp, running, State.row, dispatchRow, h, abort, closeFile, emit, State.reset]
-- T3, T5
theorem test_timeout : after .timeout (running .ulAwaitAck 2 4) (fun t =>
    t.fsm == .aborted && t.block == 4 && t.outputs == [.fclose, .endSession .failed .timeout 0 0]) = true := by decide
theorem test_timeout_unguarded :
    after .timeout { running .ulAwaitGrant 2 1 with cfg := { grantGuarded := false } } (fun t =>
      t.fsm == .ulAwaitGrant && t.outputs == []) = true := by decide
-- R112
theorem test_tx : after (.tx [0x00, 0x04, 0x00, 0x01]) State.reset (fun t =>
    t.txlen == 4 && t.bytesAt .tx 0 4 == [0x00, 0x04, 0x00, 0x01] && t.outputs == [.tx [0x00, 0x04, 0x00, 0x01]]) = true := by
  decide

/-! ### From offers -/

/-- `s` with one event offered. -/
def offering (p : Port) (bytes : Bytes) (s : State) : State := { s with offers := [.event p bytes] }

/-- What `check` says of the state after one step. -/
def afterStep (s : State) (check : State → Bool) : Bool :=
  match step s with
  | .next t => check t
  | .fault _ => false
  | .refused _ => false

-- D18: a datagram that RX has no step for stays in the channel
theorem test_step_not_enabled : afterStep (offering .channel [0x10, 0x00, 0x03, 0x00, 0x01, 0x68, 0x69] (running .dlWriting 1 1))
    (fun t => t.fsm == .dlWriting && t.offers.length == 1 && t.outputs == []) = true := by decide
-- D9
theorem test_step_consumes : afterStep (offering .channel [0x10, 0x00, 0x04, 0x00, 0x00] (running .dlAwaitFirst 1 1))
    (fun t => t.fsm == .dlAwaitFirst && t.rxlen == 4 && t.offers == []) = true := by decide
-- R451, R604: an offer that has no step is passed over
theorem test_step_passes_over :
    afterStep { running .dlAwaitFirst 1 1 with offers := [.event .file [0x30, 0x01], .event .guard [0x20]] }
      (fun t => t.fsm == .aborted && t.offers == [.event .file [0x30, 0x01]]) = true := by decide
-- R116, R701: after reset a store's byte is that reset's draw, whatever was written before it
theorem test_reset_draws : State.reset.byteAt .rx 3 = Config.freeByte 0 .rx 3 ∧
    (resetEngine (opening 1 [0x66])).byteAt .name 0 = Config.freeByte 1 .name 0 ∧
    (resetEngine (opening 1 [0x66])).block = Config.freeBlock 1 := ⟨rfl, rfl, rfl⟩
-- R708
theorem test_hangs : [FsmState.opening, .dlAwaitNext, .ulAwaitGrant, .ulAwaitAck].map (hangOf State.reset.cfg) =
      [some .filePort, none, none, none] ∧
    [FsmState.dlAwaitFirst, .ulAwaitGrant].map (hangOf { grantGuarded := false, timerRearm := .everyReceive }) =
      [some .ignoredTraffic, some .unguardedGrant] := by decide
-- R702
theorem test_step_reset : afterStep { running .dlWriting 1 7 with offers := [.reset] }
    (fun t => t.fsm == .idle && t.fileOpen == false && t.outputs == []) = true := by decide
-- an opcode-table word runs as the first instruction after reset: START's operands are zero, so R457 ends it
theorem test_step_table_word : afterStep (State.reset.withFetchWord 8 0x01)
    (fun t => t.fsm == .aborted && t.reason == .inputBadOp) = true := by decide
theorem test_step_table_datagram : afterStep ((running .ulAwaitGrant 2 1).withFetchWord 16 4)
    (fun t => t.fsm == .ulSending && t.rxlen == 4) = true := by decide

/-! ### Trace lines, R313 -/

theorem test_trace_input : traceLine (.start 1 [0x61, 0x2E, 0x74, 0x78, 0x74]) = "> START op=1 name=\"a.txt\"" ∧
    traceLine (.data 1 [0x68, 0x69]) = "> RX 00 03 00 01 68 69" ∧
    traceLine (.freadResp true [0x68, 0x69]) = "> FREAD_RESP ok=1 data=68 69" := by decide
theorem test_trace_output : outputLine (.tx [0x00, 0x04, 0x00, 0x01]) = "< TX 00 04 00 01" ∧
    outputLine (.endSession .success .none 0 0) = "< END outcome=SUCCESS reason=0 errcode=0 erridx=0" ∧
    outputLine (.status 14) = "< STATUS v=0x000E" := by decide
-- R314
theorem test_pseudo_commands : get [0x66] = .start 1 [0x66] ∧ put [0x66] = .start 2 [0x66] := by decide

/-! ### Witnesses: states and operands that meet all the hypotheses of an obligation together, at the edges of their ranges -/

/-- A byte string of a given length, with no NUL. -/
def long (n : Nat) : Bytes := List.replicate n 0x41

@[simp] theorem long_length (n : Nat) : (long n).length = n := List.length_replicate

theorem long_noNul (n : Nat) : hasNul (long n) = false := by
  simp [hasNul, long, List.mem_replicate]

theorem witness_ResetInputAbandonsSession : ({ running .dlWriting 1 7 with offers := [.reset] } : State).offers = .reset :: [] :=
  rfl

/-- An offer passed over, then an enabled one. -/
def twoOffers : State := { running .dlAwaitFirst 1 1 with offers := [.event .file [0x30, 0x01], .event .guard [0x20]] }

theorem witness_StepRunsFirstEnabledOffer :
    twoOffers.offers = [.event .file [0x30, 0x01]] ++ .event .guard [0x20] :: [] ∧
    (∀ o ∈ [Offer.event .file [0x30, 0x01]],
      ∃ q c j, o = .event q c ∧ decode q c = .ok j ∧ enabled twoOffers.cfg twoOffers.fsm j = false) ∧
    decode .guard [0x20] = .ok .timeout ∧ enabled twoOffers.cfg twoOffers.fsm .timeout = true := by
  refine ⟨rfl, fun o ho => ⟨.file, [0x30, 0x01], .fopenResp true, ?_, by decide, by decide⟩, by decide, by decide⟩
  simpa using ho

theorem witness_StepRunsDecodedInstruction : ∃ (s : State) (p : Port) (bytes : Bytes) (i : Instr),
    s.offers = .event p bytes :: [] ∧ decode p bytes = .ok i ∧ enabled s.cfg s.fsm i = true :=
  ⟨offering .host [0x01, 0x00, 0x01, 0x66] State.reset, .host, [0x01, 0x00, 0x01, 0x66], .start 1 [0x66], rfl, by decide, by decide⟩

theorem witness_StepRunsTableWord : decodeTableWord 8 0x20 = some .timeout ∧
    enabled (running .dlAwaitNext 1 1).cfg (running .dlAwaitNext 1 1).fsm .timeout = true ∧
    enabled State.reset.cfg State.reset.fsm .timeout = false := by decide

theorem witness_StepHoldsWithNothingEnabled :
    ∀ o ∈ (offering .guard [0x20] State.reset).offers,
      ∃ p bytes i, o = .event p bytes ∧ decode p bytes = .ok i ∧
        enabled (offering .guard [0x20] State.reset).cfg (offering .guard [0x20] State.reset).fsm i = false := by
  intro o ho
  exact ⟨.guard, [0x20], .timeout, by simpa [offering] using ho, by decide, by decide⟩

theorem witness_UndecodableOfferIsRefused :
    (offering .file [0x20] State.reset).offers = .event .file [0x20] :: [] ∧ decode .file [0x20] = .error (.wrongPort 0x20) := by
  decide

theorem witness_DisabledEventDoesNotMove : enabled State.reset.cfg State.reset.fsm (.ack 0) = false := by decide

theorem witness_EventsEnabledByState : datagramOf (.ack 1) = some [0x00, 0x04, 0x00, 0x01] := by decide

/-- The three clauses of START: a bad op below and above the legal ones; a NUL; the longest name that passes, and one byte more. -/
theorem witness_StartValidatesAndOpens :
    acceptsStart State.reset.fsm ∧ acceptsStart (running .done 1 1).fsm ∧ acceptsStart (running .aborted 1 1).fsm ∧
    ((0 : U16) ≠ 1 ∧ (0 : U16) ≠ 2) ∧ ((3 : U16) ≠ 1 ∧ (3 : U16) ≠ 2) ∧ hasNul [0x61, 0x00] = true ∧
    State.reset.cfg.maxName.val < (long 508).length ∧ hasNul [] = false ∧
    (long 507).length ≤ State.reset.cfg.maxName.val := by
  refine ⟨.inl rfl, .inr (.inl rfl), .inr (.inr rfl), by decide, by decide, by decide, ?_, by decide, ?_⟩ <;>
    rw [long_length] <;> decide

theorem witness_StartLatchesNameBytes : ∃ t, exec (.start 1 [0x66]) State.reset = .next t ∧ t.fsm = .opening ∧
    acceptsStart State.reset.fsm := ⟨_, rfl, rfl, .inl rfl⟩

theorem witness_StartForgetsBlockDraw : acceptsStart State.reset.fsm := .inl rfl

theorem witness_HostCommandsRejected : (∀ k, (running .ulAwaitAck 2 1).fsm ≠ .reserved k) ∧
    ¬ acceptsStart (running .ulAwaitAck 2 1).fsm ∧ State.reset.fsm ≠ .done ∧ State.reset.fsm ≠ .aborted ∧
    (Instr.reservedHost 0x00).wf = true ∧ (Instr.reservedHost 0x04).wf = true ∧ (Instr.reservedHost 0xFF).wf = true := by
  refine ⟨by simp [running], by simp [running, acceptsStart], ?_⟩
  decide

theorem witness_ClearReturnsToIdle : (∀ k, (running .done 1 1).fsm ≠ .reserved k) ∧ (running .done 1 1).fsm = .done ∧
    (∀ k, (running .opening 1 1).fsm ≠ .reserved k) ∧ (running .opening 1 1).fsm ≠ .done ∧ (running .opening 1 1).fsm ≠ .aborted := by
  refine ⟨by simp [running], rfl, by simp [running], by decide, by decide⟩

/-- The last register and the first reserved number, in a state that is not reserved. -/
theorem witness_ReadStatusAnswersRegister : (∀ k, State.reset.fsm ≠ .reserved k) ∧ (9 : U16).toNat = 9 ∧
    10 ≤ (10 : U16).toNat ∧ 10 ≤ (0xFFFF : U16).toNat := by
  refine ⟨by simp [State.reset], ?_⟩
  decide

/-- The shortest name, in each direction. -/
theorem witness_FileOpenAnswerSendsRequest :
    (opening 1 []).fsm = .opening ∧ (opening 1 []).op = 1 ∧ (opening 2 [0x66]).op = 2 ∧
    (opening 1 []).namelen.toNat ≤ (opening 1 []).cfg.maxName.val ∧
    (opening 1 []).bytesAt .name 0 (opening 1 []).namelen.toNat = [] ∧
    (opening 2 [0x66]).bytesAt .name 0 (opening 2 [0x66]).namelen.toNat = [0x66] ∧ hasNul [0x66] = false := by decide

theorem witness_ReceptionConsumesDatagram : datagramOf (.rx []) = some [] ∧ datagramOf (.rrq [] []) = some [0, 1, 0, 0] ∧
    receiving (running .dlAwaitFirst 1 1).fsm = true ∧ receiving (running .ulAwaitAck 2 1).fsm = true := by decide

theorem witness_DownloadAcceptsExpectedData : downloadWait (running .dlAwaitFirst 1 1).fsm ∧
    downloadWait (running .dlAwaitNext 1 1).fsm ∧ ([] : Bytes).length ≤ 512 ∧ (long 512).length ≤ 512 := by
  refine ⟨.inl rfl, .inr rfl, by simp, by simp⟩

theorem witness_DownloadIgnoresMismatchedData : downloadWait (running .dlAwaitNext 1 2).fsm ∧ ([] : Bytes).length ≤ 512 ∧
    (1 : U16) ≠ (running .dlAwaitNext 1 2).block ∧ (3 : U16) ≠ (running .dlAwaitNext 1 2).block :=
  ⟨.inr rfl, by simp, by decide, by decide⟩

theorem witness_DownloadIgnoresOtherDatagrams : downloadWait (running .dlAwaitFirst 1 1).fsm ∧
    (Instr.unrecognized []).wf = true ∧ (Instr.unrecognized [0x00, 0x04, 0x00, 0x00, 0x00]).wf = true :=
  ⟨.inl rfl, by decide, by decide⟩

theorem witness_DownloadErrorAborts : downloadWait (running .dlAwaitFirst 1 1).fsm := .inl rfl

theorem witness_AppendAnswerAcknowledges : (running .dlWriting 1 1).fsm = .dlWriting ∧ (running .dlWriting 1 1).last = false ∧
    ({ running .dlWriting 1 1 with last := true } : State).last = true := by decide

theorem witness_GrantWaitTakesAnyDatagram : (running .ulAwaitGrant 2 1).fsm = .ulAwaitGrant ∧ (Instr.ack 5).wf = true ∧
    datagramOf (.ack 5) = some (ackBytes 5) ∧ ∀ code, decodeDatagram (ackBytes 5) ≠ .error code := by
  refine ⟨rfl, rfl, rfl, fun code => ?_⟩
  rw [show decodeDatagram (ackBytes 5) = .ack 5 by decide]
  simp

/-- A full block, the longest short one, an empty one, and the shortest read that is too long. -/
theorem witness_ReadAnswerSendsBlock : (running .ulSending 2 1).fsm = .ulSending ∧
    (long 512).length = 512 ∧ (long 511).length < 512 ∧
    ([] : Bytes).length < 512 ∧ 512 < (long 513).length := by
  refine ⟨rfl, by simp, by simp, by simp, by simp⟩

theorem witness_MatchingAckContinues : (running .ulAwaitAck 2 0xFFFF).fsm = .ulAwaitAck := rfl

theorem witness_AckWaitErrorAborts : (running .ulAwaitAck 2 1).fsm = .ulAwaitAck := rfl

theorem witness_AckWaitOtherAborts : (running .ulAwaitAck 2 2).fsm = .ulAwaitAck ∧ (Instr.ack 1).wf = true ∧
    datagramOf (.ack 1) = some (ackBytes 1) ∧ decodeDatagram (ackBytes 1) ≠ .ack (running .ulAwaitAck 2 2).block ∧
    ∀ code, decodeDatagram (ackBytes 1) ≠ .error code := by
  refine ⟨rfl, rfl, rfl, by decide, fun code => ?_⟩
  rw [show decodeDatagram (ackBytes 1) = .ack 1 by decide]
  simp

theorem witness_TimeoutAbortsGuardedWait : downloadWait (running .dlAwaitFirst 1 1).fsm ∧
    ((running .ulAwaitGrant 2 1).fsm = .ulAwaitGrant ∧ (running .ulAwaitGrant 2 1).cfg.grantGuarded = true) ∧
    ¬ (downloadWait State.reset.fsm ∨ State.reset.fsm = .ulAwaitAck ∨
      (State.reset.fsm = .ulAwaitGrant ∧ State.reset.cfg.grantGuarded = true)) :=
  ⟨.inl rfl, ⟨rfl, rfl⟩, by simp [downloadWait, State.reset]⟩

theorem witness_OutputRowsAreEmitted : ∃ t, isOutput (.tx [0x00]) = true ∧ exec (.tx [0x00]) State.reset = .next t ∧
    t.outputs = [.tx [0x00]] := ⟨_, rfl, rfl, rfl⟩

theorem witness_TxRowWritesTransmitBuffer : (long 516).length ≤ 516 ∧
    516 < (long 517).length := by simp

/-- A step that emits a datagram, and one that emits none (for the statements over every `exec i s = .next t`). -/
theorem witness_TransmitBufferHoldsWhatWasSent : ∃ t, exec (.fappendResp true) (running .dlWriting 1 1) = .next t ∧
    added (running .dlWriting 1 1) t = [.tx (ackBytes 1)] := ⟨_, rfl, rfl⟩

theorem witness_StepOnlyAppendsOutputs : ∃ t, step (offering .host [0x02] State.reset) = .next t ∧
    t.outputs = [.reject 0x02] := ⟨_, rfl, rfl⟩

theorem witness_OnlyRequestsAcksAndDataSent : ∃ t, isOutput (.fopenResp true) = false ∧
    exec (.fopenResp true) (opening 2 [0x66]) = .next t ∧
    .tx [0x00, 0x02, 0x66, 0x00, 0x6F, 0x63, 0x74, 0x65, 0x74, 0x00] ∈ added (opening 2 [0x66]) t := ⟨_, rfl, rfl, by decide⟩

theorem witness_OnlyStartWritesNameAndOp : ∃ t, exec (.start 2 [0x66]) State.reset = .next t ∧ t.op = 2 := ⟨_, rfl, rfl⟩

theorem witness_BlockCountsByOne : ∃ t, exec (.fappendResp true) (running .dlWriting 1 0xFFFF) = .next t ∧ t.block = 0 :=
  ⟨_, rfl, by decide⟩

theorem witness_ErrorCodeOnlyOnServerError : ∃ t, exec (.error 8 []) (running .dlAwaitFirst 1 1) = .next t ∧ t.errcode = 8 :=
  ⟨_, rfl, rfl⟩

theorem witness_LastLatchedByAcceptance : ∃ t, exec (.data 1 []) (running .dlAwaitFirst 1 1) = .next t ∧ t.last = true :=
  ⟨_, rfl, rfl⟩

theorem witness_FileClosedExactlyOnce : ∃ t, isOutput .timeout = false ∧ exec .timeout (running .dlAwaitFirst 1 1) = .next t ∧
    (running .dlAwaitFirst 1 1).fileOpen = true ∧ t.fileOpen = false := ⟨_, rfl, rfl, rfl, rfl⟩

theorem witness_FileClosedExactlyOnce_opens : ∃ t, isOutput (.fopenResp true) = false ∧
    exec (.fopenResp true) (opening 1 []) = .next t ∧ (opening 1 []).fileOpen = false ∧ t.fileOpen = true :=
  ⟨_, rfl, rfl, rfl, rfl⟩

theorem witness_EndReportedOnceAndLast : ∃ t, isOutput .timeout = false ∧
    exec .timeout (running .dlAwaitFirst 1 1) = .next t ∧ (running .dlAwaitFirst 1 1).fsm.ended = false ∧
    t.fsm.ended = true := ⟨_, rfl, rfl, rfl, rfl⟩

theorem witness_EndReportedOnceAndLast_again : ∃ t, isOutput (.start 3 []) = false ∧
    exec (.start 3 []) { State.reset with fsm := .done } = .next t ∧ ({ State.reset with fsm := .done } : State).fsm.ended = true ∧
    added { State.reset with fsm := .done } t = [.endSession .failed .inputBadOp 0 0] := ⟨_, rfl, rfl, rfl, rfl⟩

theorem witness_UploadKeepsLockStep : ∃ t, isOutput (.freadResp true []) = false ∧
    exec (.freadResp true []) (running .ulSending 2 1) = .next t ∧ (running .ulSending 2 1).fsm = .ulSending ∧
    .tx (dataBytes 1 []) ∈ added (running .ulSending 2 1) t := ⟨_, rfl, rfl, rfl, by decide⟩

theorem witness_UploadKeepsLockStep_await : ∃ t, isOutput (.ack 1) = false ∧
    exec (.ack 1) (running .ulAwaitAck 2 1) = .next t ∧ (running .ulAwaitAck 2 1).fsm = .ulAwaitAck := ⟨_, rfl, rfl, rfl⟩

theorem witness_OneFileRequestOutstanding : ∃ t, isOutput (.data 1 []) = false ∧
    exec (.data 1 []) (running .dlAwaitFirst 1 1) = .next t ∧ added (running .dlAwaitFirst 1 1) t = [.fappend []] :=
  ⟨_, rfl, rfl, rfl⟩

theorem witness_OneFileRequestOutstanding_await : ∃ t, isOutput (.fappendResp true) = false ∧
    exec (.fappendResp true) (running .dlWriting 1 1) = .next t ∧ (running .dlWriting 1 1).fsm = .dlWriting :=
  ⟨_, rfl, rfl, rfl⟩

theorem witness_ReservedStateIsStuck : (running (.reserved 0) 0 0).fsm = .reserved 0 ∧ (running (.reserved 5) 0 0).fsm.code = 15 ∧
    isOutput .clear = false := by decide

/-- Reset meets the invariant. -/
theorem reset_inv : EngineInv State.reset where
  legal := rfl
  opLegal := by decide
  opDownload := by decide
  opUpload := by decide
  opOpening := by decide
  fileOpen := rfl
  reasonRunning := by decide
  reasonAborted := by decide
  erridxOf := by decide
  errcodeOnly := by decide
  lastOnly := by decide
  nameBound := by decide
  nameWritten := ⟨[], by decide⟩
  txBound := by decide
  rxStore := by decide
  txStore := by decide
  nameStore := by decide

theorem inv_offers {s : State} (h : EngineInv s) (offers : List Offer) : EngineInv { s with offers := offers } :=
  ⟨h.1, h.2, h.3, h.4, h.5, h.6, h.7, h.8, h.9, h.10, h.11, h.12, h.13, h.14, h.15, h.16, h.17⟩

/-- `running` meets the invariant in every state of a transfer, which is what the clauses under `EngineInv s` ask. -/
theorem running_inv (f : FsmState) (op : BitVec 2) (block : U16)
    (h : (f.downloading = true ∧ op = 1) ∨ (f.uploading = true ∧ op = 2)) : EngineInv (running f op block) := by
  obtain ⟨h1, h2, h3, h4, h5, h6, h7, h8, h9, h10, h11, h12, h13, h14, h15, h16, h17⟩ := reset_inv
  rcases h with ⟨h, rfl⟩ | ⟨h, rfl⟩ <;> cases f <;> simp [FsmState.downloading, FsmState.uploading] at h <;>
    exact ⟨rfl, by simp [running], by simp [running, FsmState.downloading], by simp [running, FsmState.uploading],
      by simp [running], rfl, by intro; rfl, by simp [running], h9, h10, by
      simp [running, State.reset], h12, h13, h14, h15, h16, h17⟩

theorem opening_inv : EngineInv (opening 1 []) :=
  ⟨rfl, by decide, by decide, by decide, by decide, rfl, by decide, by decide, by decide, by decide, by decide, by decide,
    ⟨[], by decide⟩, by decide, by decide, by decide, by decide⟩

/-- A payload read from RXBUF, and a name read from NAME. -/
theorem witness_StaleBufferBytesUnread :
    (∃ t, exec (.data 1 [0x68]) (running .dlAwaitFirst 1 1) = .next t) ∧ EngineInv (running .dlAwaitFirst 1 1) ∧
    (∃ t, exec (.fopenResp true) (opening 1 []) = .next t) ∧ EngineInv (opening 1 []) :=
  ⟨⟨_, rfl⟩, running_inv _ _ _ (.inl ⟨rfl, rfl⟩), ⟨_, rfl⟩, opening_inv⟩

theorem witness_StepKeepsInvariant : ∃ t, EngineInv (offering .host [0x01, 0x00, 0x01, 0x66] State.reset) ∧
    step (offering .host [0x01, 0x00, 0x01, 0x66] State.reset) = .next t ∧ t.fsm = .opening :=
  ⟨_, inv_offers reset_inv _, rfl, rfl⟩

theorem witness_WellFormedInstructionsComplete : (Instr.tx [0x00]).wf = true ∧ EngineInv State.reset := ⟨by decide, reset_inv⟩

theorem witness_StepAnswersSafely : EngineInv (offering .host [0x02] State.reset) := inv_offers reset_inv _

theorem witness_DecodeEncodeRoundTrip : (Instr.rrq [0x66] modeString).wf = true ∧
    (Instr.endSession .failed .fileIo 0xFFFF 7).wf = true := by decide

theorem witness_EncodeOfDecoded : decode .host [0x07, 0xAA] = .ok (.reservedHost 0x07) := by decide

theorem witness_EveryDatagramHasOneRow : (long 65535).length ≤ 65535 := by simp

/-- One input for each clause of the decoder's table, at the lengths where the clauses meet. -/
theorem witness_DecoderVerdictsByRow : ([0x03] : Bytes).length < 2 ∧ (0x00 : Byte).toNat * 256 + (0x03 : Byte).toNat = 3 ∧
    2 + ([0x00, 0x01] : Bytes).length ≤ 516 ∧ 2 + ([0x00] : Bytes).length < 4 ∧
    516 < 2 + (long 515).length ∧ (0x00 : Byte).toNat * 256 + (0x04 : Byte).toNat = 4 ∧
    2 + ([0x00, 0x01, 0x00] : Bytes).length ≠ 4 ∧ (0x00 : Byte).toNat * 256 + (0x05 : Byte).toNat = 5 ∧
    (0x03 : Byte).toNat * 256 + (0x00 : Byte).toNat ≠ 3 := by
  refine ⟨by simp, by decide, by simp, by simp, by simp, by decide, by simp, by decide, by decide⟩

theorem witness_CodecRoundTripLaw : ((1 : U16) = 1 ∨ (1 : U16) = 2) ∧ hasNul ([0x61] : Bytes) = false ∧
    ([0x61] : Bytes).length + ([] : Bytes).length + 4 ≤ 516 ∧ (long 512).length ≤ 512 := by
  refine ⟨.inl rfl, by decide, by simp, by simp⟩

/-- Each clause where it meets its neighbour: the op; a NUL or none; 512 bytes of payload and 513; a datagram of 516 bytes and
of 517, a request's and an Error's. -/
theorem witness_EncodersAndTheirFailures :
    ((1 : U16) = 1 ∨ (1 : U16) = 2) ∧ ((2 : U16) = 1 ∨ (2 : U16) = 2) ∧ ((0 : U16) ≠ 1 ∧ (0 : U16) ≠ 2) ∧
    ((3 : U16) ≠ 1 ∧ (3 : U16) ≠ 2) ∧ hasNul [0x00] = true ∧ hasNul (long 507) = false ∧ hasNul (long 508) = false ∧
    hasNul modeString = false ∧ (long 507).length + modeString.length + 4 ≤ 516 ∧
    516 < (long 508).length + modeString.length + 4 ∧ (long 512).length ≤ 512 ∧ 512 < (long 513).length ∧
    hasNul (long 511) = false ∧ (long 511).length + 5 ≤ 516 ∧ hasNul (long 512) = false ∧ 516 < (long 512).length + 5 := by
  refine ⟨.inl rfl, .inr rfl, by decide, by decide, by decide, ?_, ?_, by decide, by simp [modeString_length],
    by simp [modeString_length], by simp, by simp, ?_, by simp, ?_, by simp⟩ <;>
    exact long_noNul _

theorem witness_ErrorIndexInTable : (7 : U16).toNat < 8 ∧ 8 ≤ (8 : U16).toNat ∧ 8 ≤ (0xFFFF : U16).toNat := by decide

/-- A download of no full unit, and one of a full unit and an empty one. -/
theorem witness_DownloadInOrderCompletes : downloadWait (running .dlAwaitFirst 1 1).fsm ∧
    (running .dlAwaitFirst 1 1).fileOpen = true ∧ (∀ p ∈ [long 512], p.length = 512) ∧
    ([] : Bytes).length < 512 ∧ [long 512].length + 1 < 65536 ∧
    ({ running .dlAwaitFirst 1 1 with offers := downloadOffers 1 ([long 512] ++ [[]]) } : State).offers =
        downloadOffers (running .dlAwaitFirst 1 1).block ([long 512] ++ [[]]) ++ [] := by
  refine ⟨.inl rfl, rfl, by simp, by simp, by simp, by simp [running]⟩

theorem witness_UploadInOrderCompletes : (running .ulAwaitGrant 2 1).fsm = .ulAwaitGrant ∧
    (running .ulAwaitGrant 2 1).fileOpen = true ∧ (∀ p ∈ [long 512], p.length = 512) ∧
    ([] : Bytes).length < 512 ∧ [long 512].length + 1 < 65536 ∧
    ({ running .ulAwaitGrant 2 1 with
        offers := (Instr.ack 0).offer :: uploadOffers 1 [long 512] ++ (Instr.freadResp true []).offer :: [] } : State).offers =
        (Instr.ack 0).offer :: uploadOffers (running .ulAwaitGrant 2 1).block [long 512] ++
          (Instr.freadResp true []).offer :: [] := by
  refine ⟨rfl, rfl, by simp, by simp, by simp, by simp [running]⟩

end Sys2Proof.Tests
end

namespace Sys2Proof.Machine

/-! ### An event without a step (R14, R452) -/

/-- R14, R453: where RX has no step, the datagram stays in the channel. -/
theorem receive_of_not_receiving {s : State} (h : receiving s.fsm = false) (d : Bytes) : receive d s = .next s := by
  have hr : s.row.rx = .noStep := by
    rcases row_rx s with ⟨-, hf | hf⟩ | ⟨-, hf⟩ | ⟨-, hf⟩ | ⟨hr, -⟩
    case inr.inr.inr => exact hr
    all_goals rw [hf] at h; cases h
  simp only [receive, hr]

/-- R14: a datagram row, like RX, leaves the engine alone where no datagram is received. -/
theorem exec_datagram_of_not_enabled {i : Instr} {d : Bytes} (hd : datagramOf i = some d) {s : State}
    (h : enabled s.cfg s.fsm i = false) : exec i s = .next s := by
  rw [exec_datagram hd]
  exact receive_of_not_receiving (enabled_datagram hd s.cfg s.fsm ▸ h) d

/-- R14, R452: an event its state's line has no step for. Each event but a datagram reads its own column of the line. -/
theorem exec_of_not_enabled {i : Instr} {s : State} (h : enabled s.cfg s.fsm i = false) : exec i s = .next s := by
  cases i with
  | rrq f m => exact exec_datagram_of_not_enabled rfl h
  | wrq f m => exact exec_datagram_of_not_enabled rfl h
  | data b p => exact exec_datagram_of_not_enabled rfl h
  | ack b => exact exec_datagram_of_not_enabled rfl h
  | error c m => exact exec_datagram_of_not_enabled rfl h
  | unrecognized d => exact exec_datagram_of_not_enabled rfl h
  | rx d => exact exec_datagram_of_not_enabled rfl h
  | start op name =>
    have hr : s.row.start = .noStep := bne_eq_false_iff_eq.1 h
    simp only [exec, execStart, hr]
  | clear =>
    have hr : s.row.clear = .noStep := bne_eq_false_iff_eq.1 h
    simp only [exec, execClear, hr]
  | readStatus n =>
    have hr : s.row.readStatus = .noStep := bne_eq_false_iff_eq.1 h
    simp only [exec, execReadStatus, hr]
  | reservedHost tag =>
    have hr : s.row.reservedHost = .noStep := bne_eq_false_iff_eq.1 h
    simp only [exec, execReservedHost, hr]
  | timeout =>
    have hr : s.row.timeout = false := h
    simp only [exec, execTimeout, hr]
  | fopenResp ok =>
    have hr : s.row.fopenResp = false := h
    simp only [exec, execFopenResp, hr]
  | fappendResp ok =>
    have hr : s.row.fappendResp = false := h
    simp only [exec, execFappendResp, hr]
  | freadResp ok data =>
    have hr : s.row.freadResp = false := h
    simp only [exec, execFreadResp, hr]
  | tx b => cases h
  | fopen dir name => cases h
  | fappend p => cases h
  | fread => cases h
  | fclose => cases h
  | endSession o r c x => cases h
  | status v => cases h
  | reject tag => cases h

/-- Settles O8: every rule reads the column of R452's line that `enabled` reads, and answers the same state where it is empty. -/
theorem disabledEventDoesNotMove : Obligations.DisabledEventDoesNotMove := fun _ _ h => exec_of_not_enabled h

/-! ### The output rows (R312, R454) -/

/-- The output event an output row stands for (R312, R454); no other row stands for one. -/
def outputEvent : Instr → Option OutEvent
  | .tx b => some (.tx b)
  | .fopen dir name => some (.fopen dir name)
  | .fappend p => some (.fappend p)
  | .fread => some (.fread payloadMax)
  | .fclose => some .fclose
  | .endSession o r c x => some (.endSession o r c x)
  | .status v => some (.status v)
  | .reject tag => some (.reject tag)
  | .rrq _ _ | .wrq _ _ | .data _ _ | .ack _ | .error _ _ | .unrecognized _ | .start _ _ | .clear | .readStatus _ | .rx _
  | .timeout | .fopenResp _ | .fappendResp _ | .freadResp _ _ | .reservedHost _ => none

/-- The output rows are the rows that stand for an output event. -/
theorem isOutput_eq_isSome_outputEvent (i : Instr) : isOutput i = (outputEvent i).isSome := by
  cases i <;> rfl

/-- R312's port column, read off the row and off its event. -/
theorem port_of_outputEvent {i : Instr} {e : OutEvent} (h : outputEvent i = some e) : e.port = i.port := by
  cases i <;> cases h <;> rfl

/-- R312: an output row is encoded from its event's tag on. -/
theorem head?_encode_of_outputEvent {i : Instr} {e : OutEvent} (h : outputEvent i = some e) :
    (encode i).head? = some e.tag := by
  cases i <;> cases h <;> rfl

/-- R14, R454: an output row but TX is the `emit` of its event, in every state (log 8). -/
theorem exec_eq_emit {i : Instr} {e : OutEvent} (h : outputEvent i = some e) (he : ∀ b, e ≠ .tx b) (s : State) :
    exec i s = .next (emit e s) := by
  cases i <;> cases h
  case tx b => exact absurd rfl (he b)
  all_goals rfl

/-- R14, R112: an output row that completes, TX among them, has appended its own event. -/
theorem outputs_of_outputEvent {i : Instr} {e : OutEvent} (h : outputEvent i = some e) {s t : State}
    (ht : exec i s = .next t) : t.outputs = s.outputs ++ [e] := by
  cases i <;> cases h
  case tx b =>
    obtain ⟨u, hu, hk⟩ := orFault_eq_next (r := emitTx b s) ht
    obtain ⟨-, rfl⟩ := emitTx_eq_ok hu
    cases hk
    exact putTx_outputs b s
  all_goals
    cases ht
    rfl

/-- Settles O30: each of the seven rows is the `emit` of its event, and every output row's event has the row's port and tag. -/
theorem outputRowsAreEmitted : Obligations.OutputRowsAreEmitted := by
  intro s
  refine ⟨fun dir name => exec_eq_emit rfl (by simp) s, fun p => exec_eq_emit rfl (by simp) s,
    exec_eq_emit rfl (by simp) s, exec_eq_emit rfl (by simp) s, fun o r c x => exec_eq_emit rfl (by simp) s,
    fun v => exec_eq_emit rfl (by simp) s, fun tag => exec_eq_emit rfl (by simp) s, fun i t hi ht => ?_⟩
  obtain ⟨e, he⟩ := Option.isSome_iff_exists.1 (isOutput_eq_isSome_outputEvent i ▸ hi)
  exact ⟨e, outputs_of_outputEvent he ht, port_of_outputEvent he, head?_encode_of_outputEvent he⟩

end Sys2Proof.Machine

namespace Sys2Proof.Machine

open Slice0

/-! ### What one instruction does to each register (10_state.md R104 to R112)

Each lemma of this part reads one register or store off `exec_effect`: the cases named are those that write it. -/

@[simp] theorem mem_fcloseWhen {e : OutEvent} {o : Bool} : e ∈ fcloseWhen o ↔ o = true ∧ e = .fclose := by
  cases o <;> simp

@[simp] theorem count_fclose_fcloseWhen (o : Bool) : (fcloseWhen o).count .fclose = if o then 1 else 0 := by
  cases o <;> rfl

theorem ackBytes_fits (block : U16) : (ackBytes block).length ≤ dgramMax := by
  rw [ackBytes_length]
  decide

theorem dataBytes_fits (block : U16) {p : Bytes} (h : p.length ≤ payloadMax) : (dataBytes block p).length ≤ dgramMax := by
  rw [dataBytes_length]
  unfold payloadMax at h
  unfold dgramMax
  omega

/-- A length up to 516 fits a length register (`NAMELEN`, `TXLEN`). -/
theorem toNat_ofNat_of_fits {n : Nat} (h : n ≤ dgramMax) : (BitVec.ofNat 16 n).toNat = n := by
  unfold dgramMax at h
  simp only [BitVec.toNat_ofNat]
  omega

/-- R112, inverted: a step emits one datagram, which `TXBUF` and `TXLEN` then hold, or it emits none and leaves both. -/
theorem exec_transmits {i : Instr} {s t : State} (h : exec i s = .next t) :
    (t.txbuf = s.txbuf ∧ t.txlen = s.txlen ∧ ∀ b, .tx b ∉ added s t) ∨
    ∃ b, b.length ≤ dgramMax ∧ t.txbuf = s.txbuf.write 0 b ∧ t.txlen = BitVec.ofNat 16 b.length ∧
      ∀ c, .tx c ∈ added s t ↔ c = b := by
  cases exec_effect h with
  | requestSent req hf hl => exact .inr ⟨req, hl, rfl, rfl, by simp [added]⟩
  | finalAcked => exact .inr ⟨ackBytes s.block, ackBytes_fits _, by simp, by simp, by simp [added]⟩
  | unitAcked => exact .inr ⟨ackBytes s.block, ackBytes_fits _, rfl, rfl, by simp [added]⟩
  | finalSent data hf hl =>
    exact .inr ⟨dataBytes s.block data, dataBytes_fits _ (Nat.le_of_lt hl), by simp, by simp, by simp [added]⟩
  | unitSent data hf hl => exact .inr ⟨dataBytes s.block data, dataBytes_fits _ hl.le, rfl, rfl, by simp [added]⟩
  | txEmitted b hl => exact .inr ⟨b, hl, rfl, rfl, by simp [added]⟩
  | emitted e hi he => exact .inl ⟨rfl, rfl, by simpa [added] using fun b hb => he b hb.symm⟩
  | _ => simp [added]

/-- R111, inverted: `RXBUF` is written by a datagram alone, with its first 516 bytes. -/
theorem exec_rxbuf {i : Instr} {s t : State} (h : exec i s = .next t) :
    t.rxbuf = s.rxbuf ∨ ∃ d, datagramOf i = some d ∧ t.rxbuf = s.rxbuf.write 0 (d.take dgramMax) := by
  cases exec_effect h with
  | serverErrorTaken d code hi | ignored d hi | granted d hi | outOfSequence d hi => exact .inr ⟨d, hi, by simp⟩
  | accepted p hi => exact .inr ⟨_, hi, rfl⟩
  | acked hi => exact .inr ⟨_, hi, rfl⟩
  | _ => simp

/-- R110, R456, R457, inverted: a START that opens latches the name, one that fails a check clears `NAMELEN`, and nothing else
writes either. -/
theorem exec_name {i : Instr} {s t : State} (h : exec i s = .next t) :
    (t.name = s.name ∧ t.namelen = s.namelen) ∨
    (∃ op name, i = .start op name ∧ t.name = s.name ∧ t.namelen = 0) ∨
    ∃ op name, i = .start op name ∧ hasNul name = false ∧ name.length ≤ s.cfg.maxName.val ∧
      t.name = s.name.write 0 name ∧ t.namelen = BitVec.ofNat 16 name.length := by
  cases exec_effect h with
  | startFailed op name => exact .inr (.inl ⟨op, name, rfl, by simp, by simp⟩)
  | started op name hf hop hz hl => exact .inr (.inr ⟨op, name, rfl, hz, hl, rfl, rfl⟩)
  | _ => simp

/-- R104, R457: the values START writes to `OP`. -/
theorem opRegister_cases (op : U16) :
    (op = 1 ∧ opRegister op = 1) ∨ (op = 2 ∧ opRegister op = 2) ∨ (op ≠ 1 ∧ op ≠ 2 ∧ opRegister op = 0) := by
  unfold opRegister
  split_ifs <;> simp_all

/-- R104, inverted: only START writes `OP`. -/
theorem exec_op {i : Instr} {s t : State} (h : exec i s = .next t) :
    t.op = s.op ∨ ∃ op name, i = .start op name ∧ t.op = opRegister op := by
  cases exec_effect h with
  | started op name => exact .inr ⟨op, name, rfl, rfl⟩
  | startFailed op name => exact .inr ⟨op, name, rfl, by simp⟩
  | _ => simp

/-- Settles O36: the rules that write `BLOCK` are START's two outcomes, the append's `ok` and the matching Ack. -/
theorem blockCountsByOne : Obligations.BlockCountsByOne := by
  intro i s t h
  cases exec_effect h with
  | started op name => exact .inr (.inl ⟨⟨op, name, rfl⟩, rfl⟩)
  | startFailed op name => exact .inr (.inl ⟨⟨op, name, rfl⟩, by simp⟩)
  | finalAcked hf => exact .inr (.inr (.inl ⟨rfl, hf, by simp⟩))
  | unitAcked hf => exact .inr (.inr (.inl ⟨rfl, hf, rfl⟩))
  | acked hi hf => exact .inr (.inr (.inr ⟨hi, hf, rfl⟩))
  | _ => simp

/-- Settles O37: the rules that write `ERRCODE` and `ERRIDX` are START's two outcomes and the abort on an Error. -/
theorem errorCodeOnlyOnServerError : Obligations.ErrorCodeOnlyOnServerError := by
  intro i s t h
  cases exec_effect h with
  | started op name => exact .inr (.inl ⟨⟨op, name, rfl⟩, rfl, rfl⟩)
  | startFailed op name => exact .inr (.inl ⟨⟨op, name, rfl⟩, by simp, by simp⟩)
  | serverErrorTaken d code hi hf hv => exact .inr (.inr ⟨d, code, hi, hv, by simp⟩)
  | _ => simp

/-- Settles O38: the rules that write `LAST` are START's two outcomes and the acceptance of a Data unit. -/
theorem lastLatchedByAcceptance : Obligations.LastLatchedByAcceptance := by
  intro i s t h
  cases exec_effect h with
  | started op name => exact .inr (.inl ⟨⟨op, name, rfl⟩, rfl⟩)
  | startFailed op name => exact .inr (.inl ⟨⟨op, name, rfl⟩, by simp⟩)
  | accepted p hi hf => exact .inr (.inr ⟨_, hi, hf, rfl, by simp [finalUnit]⟩)
  | _ => simp

/-- Settles O39: only the sent request sets `FILE_OPEN`, and only the end procedures clear it, with the FCLOSE of `fcloseWhen`. -/
theorem fileClosedExactlyOnce : Obligations.FileClosedExactlyOnce := by
  intro i s t hi h
  refine ⟨fun hs ht => ?_, ?_⟩
  · cases exec_effect h with
    | requestSent req hf => exact ⟨rfl, hf⟩
    | _ => simp [hs] at ht
  · cases exec_effect h with
    | emitted e ho => rw [hi] at ho; cases ho
    | txEmitted => cases hi
    | _ => simp [added]

/-- Settles O35: `OP` by `exec_op`, the name by `exec_name`, and its unwritten bytes because no instruction draws. -/
theorem onlyStartWritesNameAndOp : Obligations.OnlyStartWritesNameAndOp := by
  intro i s t h
  refine ⟨fun hi => ?_, ?_⟩
  · have hop : t.op = s.op := (exec_op h).resolve_right fun ⟨op, name, e, _⟩ => hi op name e
    obtain ⟨hname, hlen⟩ | ⟨op, name, e, -⟩ | ⟨op, name, e, -⟩ := exec_name h
    · exact ⟨hop, hlen, fun a => byteAt_congr (by simp [hname]) (exec_draws h)⟩
    all_goals exact absurd e (hi op name)
  · rintro op name rfl
    obtain hop | ⟨_, _, ⟨⟩, hop⟩ := exec_op h
    · exact .inl hop
    · rw [hop]
      exact .inr (opRegister_cases op)

/-- Settles O11: a START that answers a state in `OPENING` has passed its checks, so it wrote the name from offset 0 and no other
store. -/
theorem startLatchesNameBytes : Obligations.StartLatchesNameBytes := by
  intro s t op name h ht hs
  have hfsm : s.fsm ≠ .opening := by
    intro e
    simp [acceptsStart, e] at hs
  cases exec_effect h with
  | started _ _ hf hop hz hl =>
    have hmax := s.cfg.maxName.isLt
    have hlen : name.length ≤ dgramMax := by unfold dgramMax; omega
    exact ⟨toNat_ofNat_of_fits hlen, bytesAt_write (s := s) rfl, fun a => byteAt_write_above rfl rfl,
      fun a => byteAt_congr rfl rfl, fun a => byteAt_congr rfl rfl⟩
  | startFailed => simp at ht
  | noStep | startRejected => exact absurd ht hfsm
  | serverErrorTaken _ _ hi | accepted _ hi | ignored _ hi | granted _ hi | acked hi | outOfSequence _ hi
  | emitted _ hi => cases hi

/-! ### The buffers (R111, R112) -/

/-- Settles O31: `TX` is `putTx` where the datagram fits `TXBUF`, and the fault of `emitTx` where it does not. -/
theorem txRowWritesTransmitBuffer : Obligations.TxRowWritesTransmitBuffer := by
  intro s b
  refine ⟨fun hb => ⟨putTx b s, ?_, rfl, fun a => byteAt_write rfl, fun a => byteAt_write_above rfl rfl⟩, fun hb => ?_⟩
  · simp only [exec, execTx, emitTx_ok hb, orFault_ok]
  · simp only [exec, execTx, emitTx, if_pos hb, orFault_error]

/-- Settles O32: by `exec_transmits`, what was emitted is what was written, and nothing was written where nothing was emitted. -/
theorem transmitBufferHoldsWhatWasSent : Obligations.TransmitBufferHoldsWhatWasSent := by
  intro i s t h
  obtain ⟨hbuf, hlen, hnone⟩ | ⟨b, hb, hbuf, hlen, hsent⟩ := exec_transmits h
  · exact ⟨fun b hb => absurd hb (hnone b), fun _ => ⟨hlen, fun a => byteAt_congr (by simp [hbuf]) (exec_draws h)⟩⟩
  · refine ⟨fun c hc => ?_, fun hnone => absurd ((hsent b).2 rfl) (hnone b)⟩
    obtain rfl := (hsent c).1 hc
    exact ⟨hb, hlen ▸ toNat_ofNat_of_fits hb, bytesAt_write hbuf, fun a => byteAt_write_above hbuf (exec_draws h)⟩

/-- R453, R111: in a receiving state the rule that takes a datagram, whichever it is, completes, leaves `RXBUF` and `RXLEN` as
consumption left them, and writes none of the other registers named here. -/
theorem receive_consumes {s : State} (h : receiving s.fsm = true) (d : Bytes) :
    ∃ t, receive d s = .next t ∧ t.rxbuf = s.rxbuf.write 0 (d.take dgramMax) ∧
      t.rxlen = BitVec.ofNat 16 (min d.length 0xFFFF) ∧ t.txbuf = s.txbuf ∧ t.txlen = s.txlen ∧ t.name = s.name ∧
      t.namelen = s.namelen ∧ t.op = s.op ∧ t.draws = s.draws := by
  unfold receive
  obtain ⟨hr, -⟩ | ⟨hr, -⟩ | ⟨hr, -⟩ | ⟨-, hf⟩ := row_rx s
  · rw [hr]
    obtain ⟨code, -, e⟩ | ⟨p, -, -, e⟩ | ⟨-, -, e⟩ := downloadReceive_cases d s <;> exact ⟨_, e, by simp⟩
  · rw [hr]
    obtain ⟨code, -, e⟩ | ⟨-, e⟩ := grantReceive_cases d s <;> exact ⟨_, e, by simp⟩
  · rw [hr]
    obtain ⟨code, -, e⟩ | ⟨-, e⟩ | ⟨-, -, e⟩ := ackReceive_cases d s <;> exact ⟨_, e, by simp⟩
  · rw [h] at hf
    cases hf

/-- Settles O17: `receive_consumes`, read byte by byte. -/
theorem receptionConsumesDatagram : Obligations.ReceptionConsumesDatagram := by
  intro s i d hi hf
  obtain ⟨t, ht, hrx, hrxlen, htx, htxlen, hname, hnamelen, hop, hdraws⟩ := receive_consumes hf d
  have hlen : (d.take dgramMax).length = min d.length 516 := by rw [List.length_take, Nat.min_comm]
  refine ⟨t, by rw [exec_datagram hi, ht], by rw [hrxlen, BitVec.toNat_ofNat]; omega, fun a ha => ?_, fun a ha => ?_,
    fun a => byteAt_congr (by simp [htx]) hdraws, fun a => byteAt_congr (by simp [hname]) hdraws, htxlen, hnamelen, hop⟩
  · rw [byteAt_write (s := s) (sp := .rx) hrx (hlen ▸ ha), List.getElem?_take_of_lt (by unfold dgramMax; omega)]
  · exact byteAt_write_above (sp := .rx) hrx hdraws (hlen ▸ ha)

/-! ### Codes, reset, START and the reserved states -/

/-- Settles O1: `State.reset` writes these values out. -/
theorem resetLeavesSpecValues : Obligations.ResetLeavesSpecValues := ⟨rfl, rfl, rfl, rfl, rfl, rfl, rfl, rfl, rfl, rfl⟩

/-- R102, read backwards: the state a code of `STATE` stands for. -/
def FsmState.ofCode (c : BitVec 4) : FsmState :=
  match c.toNat with
  | 0 => .idle
  | 1 => .opening
  | 2 => .dlAwaitFirst
  | 3 => .dlAwaitNext
  | 4 => .dlWriting
  | 5 => .ulAwaitGrant
  | 6 => .ulSending
  | 7 => .ulAwaitAck
  | 8 => .done
  | 9 => .aborted
  | n + 10 => .reserved (Fin.ofNat 6 n)

theorem FsmState.ofCode_code : Function.LeftInverse FsmState.ofCode FsmState.code
  | .reserved k => by revert k; decide
  | .idle | .opening | .dlAwaitFirst | .dlAwaitNext | .dlWriting => rfl
  | .ulAwaitGrant | .ulSending | .ulAwaitAck | .done | .aborted => rfl

/-- Settles O15: no two states share a code because a code gives its state back. -/
theorem stateAndReasonCodes : Obligations.StateAndReasonCodes := ⟨rfl, rfl, fun _ _ h => FsmState.ofCode_code.injective h⟩

/-- 93 item 4: in a reserved STATE the output rows alone are enabled. -/
theorem enabled_reserved (cfg : Config) (k : Fin 6) (i : Instr) : enabled cfg (.reserved k) i = isOutput i := by
  cases i <;> rfl

/-- Settles O43: an input event is not enabled in a reserved STATE, so it has no step there. -/
theorem reservedStateIsStuck : Obligations.ReservedStateIsStuck :=
  fun i s k hf hi => exec_of_not_enabled (by rw [hf, enabled_reserved, hi])

/-- R452, R456: where START is accepted, its rule runs. -/
theorem exec_start_of_acceptsStart {s : State} (h : acceptsStart s.fsm) (op : U16) (name : Bytes) :
    exec (.start op name) s = .next (startSession op name s) := by
  have hr : s.row.start = .run := by
    unfold State.row
    rcases h with hf | hf | hf <;> rw [hf] <;> rfl
  simp only [exec, execStart, hr]

/-- Settles O45: START's rule reads the session registers only after `clearSession`, which sets `BLOCK` whatever it was. -/
theorem startForgetsBlockDraw : Obligations.StartForgetsBlockDraw := by
  intro s op b name h
  have hclear : clearSession { s with block := b } = clearSession s := rfl
  rw [exec_start_of_acceptsStart h, exec_start_of_acceptsStart (s := { s with block := b }) h]
  simp only [startSession, hclear]

/-! ### The engine invariant: its registers -/

/-- What `EngineInv` asks of `OP`, `LAST`, `FILE_OPEN` and `REASON`, said state by state (R102, R104, R106 to R108). -/
def Consistent (s : State) : Prop :=
  match s.fsm with
  | .idle => s.fileOpen = false ∧ (s.last = true → s.op ≠ 2)
  | .opening => (s.op = 1 ∨ s.op = 2) ∧ s.fileOpen = false ∧ s.reason = .none ∧ s.last = false
  | .dlAwaitFirst | .dlAwaitNext => s.op = 1 ∧ s.fileOpen = true ∧ s.reason = .none ∧ s.last = false
  | .dlWriting => s.op = 1 ∧ s.fileOpen = true ∧ s.reason = .none
  | .ulAwaitGrant | .ulSending | .ulAwaitAck => s.op = 2 ∧ s.fileOpen = true ∧ s.reason = .none ∧ s.last = false
  | .done => s.fileOpen = false ∧ s.reason = .none ∧ (s.last = true → s.op ≠ 2)
  | .aborted => s.fileOpen = false ∧ s.reason ≠ .none ∧ (s.last = true → s.op ≠ 2)
  | .reserved _ => False

/-- `Consistent` is the eight clauses of `EngineInv` that depend on `STATE`. -/
theorem consistent_iff {s : State} : Consistent s ↔
    s.fsm.legal = true ∧ (s.fsm.downloading = true → s.op = 1) ∧ (s.fsm.uploading = true → s.op = 2) ∧
    (s.fsm = .opening → s.op = 1 ∨ s.op = 2) ∧ s.fileOpen = (s.fsm.downloading || s.fsm.uploading) ∧
    (s.fsm.running = true ∨ s.fsm = .done → s.reason = .none) ∧ (s.fsm = .aborted → s.reason ≠ .none) ∧
    (s.last = true → s.fsm.mayHoldLast = true ∧ s.op ≠ 2) := by
  unfold Consistent
  cases s.fsm <;>
    simp +contextual [FsmState.legal, FsmState.downloading, FsmState.uploading, FsmState.running, FsmState.mayHoldLast]

theorem EngineInv.consistent {s : State} (h : EngineInv s) : Consistent s :=
  consistent_iff.2 ⟨h.legal, h.opDownload, h.opUpload, h.opOpening, h.fileOpen, h.reasonRunning, h.reasonAborted,
    h.lastOnly⟩

/-- R106: an upload never has `LAST` set. -/
theorem Consistent.op_ne_two {s : State} (h : Consistent s) (hl : s.last = true) : s.op ≠ 2 := by
  obtain ⟨-, -, -, -, -, -, -, hlast⟩ := consistent_iff.1 h
  exact (hlast hl).2

/-- R611: the abort procedure leaves what `ABORTED` asks. -/
theorem Consistent.abort {s : State} (h : Consistent s) {r : Reason} (hr : r ≠ .none) : Consistent (abort r s) := by
  simpa [Consistent, hr] using h.op_ne_two

/-- R612: the success procedure leaves what `DONE` asks. -/
theorem Consistent.finish {s : State} (h : Consistent s) : Consistent (finish s) := by
  simpa [Consistent] using h.op_ne_two

/-- Each rule enters a state whose clause holds of what it leaves: the end procedures from wherever they run, the others from
the state their rule names. -/
theorem exec_keeps_consistent {i : Instr} {s t : State} (h : exec i s = .next t) (hs : Consistent s) : Consistent t := by
  cases exec_effect h with
  | noStep | answered | startRejected | clearRejected | reservedRejected | ignored | txEmitted | emitted => exact hs
  | openFailed | appendFailed | readFailed | timedOut => exact hs.abort nofun
  | outOfSequence d => exact Consistent.abort (s := consume d s) hs nofun
  | serverErrorTaken d code =>
    exact Consistent.abort (s := { consume d s with errcode := code, erridx := erridx code }) hs nofun
  | finalAcked | finalSent => exact Consistent.finish hs
  | started op name hf hop =>
    have hfile : s.fileOpen = false := by rcases hf with hf | hf | hf <;> simp_all [Consistent]
    rcases hop with rfl | rfl <;> simp [Consistent, hfile, opRegister]
  | startFailed op name r hf hr => rcases hr with rfl | rfl <;> simp [Consistent]
  | cleared hf => rcases hf with hf | hf <;> simp_all [Consistent]
  | requestSent req hf hl hop => rcases hop with hop | hop <;> simp_all [Consistent]
  | accepted p hi hf => rcases hf with hf | hf <;> simp_all [Consistent]
  | granted d hi hf | acked hi hf | unitAcked hf | unitSent data hf => simp_all [Consistent]

theorem exec_keeps_opLegal {i : Instr} {s t : State} (h : exec i s = .next t) (hs : s.op ≠ 3) : t.op ≠ 3 := by
  obtain hop | ⟨op, name, -, hop⟩ := exec_op h
  · rwa [hop]
  · obtain ⟨-, e⟩ | ⟨-, e⟩ | ⟨-, -, e⟩ := opRegister_cases op <;> rw [hop, e] <;> decide

theorem exec_keeps_erridxOf {i : Instr} {s t : State} (h : exec i s = .next t) (hs : s.erridx = erridx s.errcode) :
    t.erridx = erridx t.errcode := by
  obtain ⟨hcode, hidx⟩ | ⟨-, hcode, hidx⟩ | ⟨d, code, -, -, -, -, hcode, hidx⟩ := errorCodeOnlyOnServerError i s t h
  · rw [hcode, hidx, hs]
  · rw [hcode, hidx]
    decide
  · rw [hcode, hidx]

/-- R103: a datagram is received, and a timeout taken, only while a session runs. -/
theorem running_of_receiving {f : FsmState} : receiving f = true → f.running = true := by
  cases f <;> simp [receiving, FsmState.running, FsmState.downloading, FsmState.uploading]

theorem running_of_guarded {cfg : Config} {f : FsmState} : guarded cfg f = true → f.running = true := by
  cases f <;> simp [guarded, FsmState.running, FsmState.downloading, FsmState.uploading]

/-- R108: `REASON` is written in a session that runs, or by a START, which clears `ERRCODE` too. -/
theorem exec_reason_written {i : Instr} {s t : State} (h : exec i s = .next t) :
    t.reason = s.reason ∨ s.fsm.running = true ∨ t.errcode = 0 := by
  cases exec_effect h with
  | openFailed hf | finalAcked hf | finalSent _ hf | appendFailed hf | readFailed _ _ hf | outOfSequence _ _ hf =>
    exact .inr (.inl (by rw [hf]; rfl))
  | serverErrorTaken _ _ _ hf => exact .inr (.inl (running_of_receiving hf))
  | timedOut hf => exact .inr (.inl (running_of_guarded hf))
  | _ => simp

theorem exec_keeps_errcodeOnly {i : Instr} {s t : State} (h : exec i s = .next t)
    (hrun : s.fsm.running = true → s.reason = .none) (hs : s.reason ≠ .serverError → s.errcode = 0)
    (ht : t.reason ≠ .serverError) : t.errcode = 0 := by
  obtain ⟨hcode, -⟩ | ⟨-, hcode, -⟩ | ⟨d, code, -, -, -, hreason, -⟩ := errorCodeOnlyOnServerError i s t h
  · obtain hr | hr | hr := exec_reason_written h
    · rw [hcode, hs (hr ▸ ht)]
    · rw [hcode, hs (by simp [hrun hr])]
    · exact hr
  · exact hcode
  · exact absurd hreason ht

/-! ### The engine invariant: its stores -/

/-- R201: a write from offset 0 that fits a store keeps its form and its size. -/
theorem store_write {m : Memory} {size : Nat} {bs : Bytes} (h : m.wf ∧ m.within size) (hb : bs.length ≤ size) :
    (m.write 0 bs).wf ∧ (m.write 0 bs).within size :=
  ⟨write_wf 0 bs h.1, write_within h.2 (by omega)⟩

theorem exec_keeps_rxStore {i : Instr} {s t : State} (h : exec i s = .next t)
    (hs : s.rxbuf.wf ∧ s.rxbuf.within dgramMax) : t.rxbuf.wf ∧ t.rxbuf.within dgramMax := by
  obtain hrx | ⟨d, -, hrx⟩ := exec_rxbuf h <;> rw [hrx]
  · exact hs
  · exact store_write hs (List.length_take_le _ _)

theorem exec_keeps_txStore {i : Instr} {s t : State} (h : exec i s = .next t)
    (hs : s.txbuf.wf ∧ s.txbuf.within dgramMax) : t.txbuf.wf ∧ t.txbuf.within dgramMax := by
  obtain ⟨htx, -⟩ | ⟨b, hb, htx, -⟩ := exec_transmits h <;> rw [htx]
  · exact hs
  · exact store_write hs hb

theorem exec_keeps_txBound {i : Instr} {s t : State} (h : exec i s = .next t) (hs : s.txlen.toNat ≤ dgramMax) :
    t.txlen.toNat ≤ dgramMax := by
  obtain ⟨-, hlen, -⟩ | ⟨b, hb, -, hlen, -⟩ := exec_transmits h <;> rw [hlen]
  · exact hs
  · rwa [toNat_ofNat_of_fits hb]

/-- R110, R201: the three clauses of `EngineInv` on `NAME` and `NAMELEN`. -/
def NameInv (s : State) : Prop :=
  s.namelen.toNat ≤ s.cfg.maxName.val ∧ (∃ n, s.name.read 0 s.namelen.toNat = some n ∧ hasNul n = false) ∧
  s.name.wf ∧ s.name.within s.cfg.maxName.val

theorem exec_keeps_nameInv {i : Instr} {s t : State} (h : exec i s = .next t) (hs : NameInv s) : NameInv t := by
  obtain ⟨hbound, hwritten, hstore⟩ := hs
  unfold NameInv
  rw [exec_cfg h]
  obtain ⟨hname, hlen⟩ | ⟨op, name, -, hname, hlen⟩ | ⟨op, name, -, hz, hl, hname, hlen⟩ := exec_name h <;>
    rw [hname, hlen]
  · exact ⟨hbound, hwritten, hstore⟩
  · exact ⟨Nat.zero_le _, ⟨[], rfl, rfl⟩, hstore⟩
  · have hmax := s.cfg.maxName.isLt
    rw [toNat_ofNat_of_fits (by unfold dgramMax; omega)]
    exact ⟨hl, ⟨name, read_write _ _, hz⟩, store_write hstore hl⟩

/-! ### The engine invariant: every step keeps it -/

/-- R116, R701: the state a reset leaves has the invariant, whatever it drew and whatever stands beside the registers. -/
theorem engineInv_fresh (block : U16) (cfg : Config) (offers : List Offer) (outputs : List OutEvent) (draws : Nat) :
    EngineInv { State.reset with block := block, cfg := cfg, offers := offers, outputs := outputs, draws := draws } where
  legal := rfl
  opLegal := by simp [State.reset]
  opDownload := nofun
  opUpload := nofun
  opOpening := nofun
  fileOpen := rfl
  reasonRunning _ := rfl
  reasonAborted := nofun
  erridxOf := rfl
  errcodeOnly _ := rfl
  lastOnly := nofun
  nameBound := Nat.zero_le _
  nameWritten := ⟨[], rfl, rfl⟩
  txBound := Nat.zero_le _
  rxStore := ⟨nil_wf, nil_within _⟩
  txStore := ⟨nil_wf, nil_within _⟩
  nameStore := ⟨nil_wf, nil_within _⟩

/-- Settles O46: `State.reset` is the first of the states a reset leaves. -/
theorem invariantHoldsAtReset : Obligations.InvariantHoldsAtReset := engineInv_fresh _ _ _ _ _

theorem engineInv_resetEngine (s : State) : EngineInv (resetEngine s) := engineInv_fresh _ _ _ _ _

/-- What the environment offers is no part of the invariant. -/
theorem EngineInv.withOffers {s : State} (h : EngineInv s) (offers : List Offer) : EngineInv { s with offers := offers } :=
  { h with }

/-- Every instruction, output rows and ill-formed operands included, keeps the invariant. -/
theorem exec_keeps_engineInv {i : Instr} {s t : State} (h : exec i s = .next t) (hs : EngineInv s) : EngineInv t := by
  obtain ⟨hlegal, hdown, hup, hopen, hfile, hrunning, haborted, hlast⟩ :=
    consistent_iff.1 (exec_keeps_consistent h hs.consistent)
  obtain ⟨hbound, hwritten, hname⟩ := exec_keeps_nameInv h ⟨hs.nameBound, hs.nameWritten, hs.nameStore⟩
  exact {
    legal := hlegal
    opLegal := exec_keeps_opLegal h hs.opLegal
    opDownload := hdown
    opUpload := hup
    opOpening := hopen
    fileOpen := hfile
    reasonRunning := hrunning
    reasonAborted := haborted
    erridxOf := exec_keeps_erridxOf h hs.erridxOf
    errcodeOnly := exec_keeps_errcodeOnly h (fun hr => hs.reasonRunning (.inl hr)) hs.errcodeOnly
    lastOnly := hlast
    nameBound := hbound
    nameWritten := hwritten
    txBound := exec_keeps_txBound h hs.txBound
    rxStore := exec_keeps_rxStore h hs.rxStore
    txStore := exec_keeps_txStore h hs.txStore
    nameStore := hname }

/-- Settles O47: a step holds its state, resets, or runs one instruction (R451, R618, R701). -/
theorem stepKeepsInvariant : Obligations.StepKeepsInvariant := by
  intro s t hs h
  unfold step at h
  split at h
  · cases h
    exact hs
  · cases h
    exact engineInv_resetEngine _
  · cases h
  · exact exec_keeps_engineInv h (hs.withOffers _)

end Sys2Proof.Machine

namespace Sys2Proof.Machine

open Slice0

/-! ### Outputs (20_memory.md R210, R212) -/

/-- R14: every rule appends what it emits to the outputs it finds. -/
theorem exec_outputs {i : Instr} {s t : State} (h : exec i s = .next t) : ∃ new, t.outputs = s.outputs ++ new := by
  cases exec_effect h <;> simp

/-- R451, R618, R701, inverted: a step holds its state, resets, or runs one instruction on the offers left. -/
theorem step_eq_next {s t : State} (h : step s = .next t) :
    t = s ∨ (∃ rest, t = resetEngine { s with offers := rest }) ∨ ∃ i rest, exec i { s with offers := rest } = .next t := by
  unfold step at h
  split at h
  · exact .inl (by cases h; rfl)
  · exact .inr (.inl ⟨_, by cases h; rfl⟩)
  · cases h
  · exact .inr (.inr ⟨_, _, h⟩)

/-- Settles O33: a step that runs no instruction emits nothing, and an instruction only appends. -/
theorem stepOnlyAppendsOutputs : Obligations.StepOnlyAppendsOutputs := by
  intro s t h
  obtain rfl | ⟨rest, rfl⟩ | ⟨i, rest, hi⟩ := step_eq_next h
  · exact ⟨⟨[], by simp⟩, rfl⟩
  · exact ⟨⟨[], by simp⟩, rfl⟩
  · exact ⟨(exec_outputs hi :), (exec_cfg hi :)⟩

/-- The states that wait for the file port to answer a request (R452, R454). -/
def awaitsFile (f : FsmState) : Prop := f = .opening ∨ f = .dlWriting ∨ f = .ulSending

/-- R454, inverted: an input event asks nothing of the file port, or it emits one request alone, from a state that awaits no
answer into one that does. The rules that ask are R456, R503, R552 and R555. -/
theorem exec_requests {i : Instr} {s t : State} (ho : isOutput i = false) (h : exec i s = .next t) :
    (∀ e ∈ added s t, isFileRequest e = false) ∨
    ∃ e, added s t = [e] ∧ awaitsFile t.fsm ∧ ¬ awaitsFile s.fsm := by
  cases exec_effect h with
  | started op name hf =>
    exact .inr ⟨.fopen (openDir op) name, by simp [added], .inl rfl, by rcases hf with hf | hf | hf <;> simp [awaitsFile, hf]⟩
  | accepted p hi hf =>
    exact .inr ⟨.fappend p, by simp [added], .inr (.inl rfl), by rcases hf with hf | hf <;> simp [awaitsFile, hf]⟩
  | granted d hi hf => exact .inr ⟨.fread payloadMax, by simp [added], .inr (.inr rfl), by simp [awaitsFile, hf]⟩
  | acked hi hf => exact .inr ⟨.fread payloadMax, by simp [added], .inr (.inr rfl), by simp [awaitsFile, hf]⟩
  | emitted e hi => rw [ho] at hi; cases hi
  | _ => simp +contextual [added, isFileRequest, or_imp]

/-- Settles O42: by `exec_requests`, the step emits no request, or one alone with the two states as stated. -/
theorem oneFileRequestOutstanding : Obligations.OneFileRequestOutstanding := by
  intro i s t ho h
  obtain hnone | ⟨e, hadded, ht, hs⟩ := exec_requests ho h
  · refine ⟨?_, fun e he hreq => ?_, fun _ => hnone⟩
    · rw [List.filter_eq_nil_iff.2 fun e he => by simp [hnone e he]]
      exact Nat.zero_le _
    · rw [hnone e he] at hreq
      cases hreq
  · exact ⟨hadded ▸ List.length_filter_le _ _, fun _ _ _ => ht, fun hw => absurd hw hs⟩

/-! ### Stale bytes (R111, R112, R116, R215; 93 items 2 and 3) -/

/-- The same state with other contents of the two buffers and with the draws of the `k`th reset. -/
def State.redraw (s : State) (rx tx : Memory) (k : Nat) : State := { s with rxbuf := rx, txbuf := tx, draws := k }

section Redraw

variable (s : State) (rx tx : Memory) (k : Nat)

@[simp] theorem redraw_cfg : (s.redraw rx tx k).cfg = s.cfg := rfl
@[simp] theorem redraw_fsm : (s.redraw rx tx k).fsm = s.fsm := rfl
@[simp] theorem redraw_block : (s.redraw rx tx k).block = s.block := rfl
@[simp] theorem redraw_last : (s.redraw rx tx k).last = s.last := rfl
@[simp] theorem redraw_row : (s.redraw rx tx k).row = s.row := rfl

@[simp] theorem emit_redraw (e : OutEvent) : emit e (s.redraw rx tx k) = (emit e s).redraw rx tx k := rfl

@[simp] theorem rejectCommand_redraw (tag : Byte) :
    rejectCommand tag (s.redraw rx tx k) = (rejectCommand tag s).redraw rx tx k := rfl

@[simp] theorem returnToIdle_redraw : returnToIdle (s.redraw rx tx k) = (returnToIdle s).redraw rx tx k := rfl

/-- R115: the status registers show lengths and codes, no byte of a store. -/
@[simp] theorem statusRegister_redraw (n : U16) : statusRegister n (s.redraw rx tx k) = statusRegister n s := rfl

@[simp] theorem putTx_redraw (b : Bytes) : putTx b (s.redraw rx tx k) = (putTx b s).redraw rx (tx.write 0 b) k := rfl

@[simp] theorem consume_redraw (d : Bytes) :
    consume d (s.redraw rx tx k) = (consume d s).redraw (rx.write 0 (d.take dgramMax)) tx k := rfl

@[simp] theorem abort_redraw (r : Reason) : abort r (s.redraw rx tx k) = (abort r s).redraw rx tx k := by
  simp only [abort_eq, State.redraw]

@[simp] theorem finish_redraw : finish (s.redraw rx tx k) = (finish s).redraw rx tx k := by
  simp only [finish_eq, State.redraw]

@[simp] theorem serverError_redraw (code : U16) :
    serverError code (s.redraw rx tx k) = (serverError code s).redraw rx tx k := by
  simp only [serverError_eq, State.redraw]

/-- R456, R457: START reads neither buffer and no draw. -/
@[simp] theorem startSession_redraw (op : U16) (name : Bytes) :
    startSession op name (s.redraw rx tx k) = (startSession op name s).redraw rx tx k := by
  unfold startSession
  rw [redraw_cfg]
  cases validate s.cfg op name with
  | none => rfl
  | some r => exact abort_redraw { clearSession s with op := opRegister op } rx tx k r

end Redraw

/-- With the draws of the `k`th reset, `NAME[0..NAMELEN)` holds the same bytes. -/
def NameKept (s : State) (k : Nat) : Prop :=
  ∀ rx tx, (s.redraw rx tx k).bytesAt .name 0 s.namelen.toNat = s.bytesAt .name 0 s.namelen.toNat

theorem nameKept_own_draws (s : State) : NameKept s s.draws :=
  fun rx tx => bytesAt_congr (s := s) (t := s.redraw rx tx s.draws) rfl rfl _ _

/-- R110: with the invariant the name has been written, so no draw shows in it. -/
theorem EngineInv.nameKept {s : State} (h : EngineInv s) (k : Nat) : NameKept s k := by
  obtain ⟨n, hn, -⟩ := h.nameWritten
  intro rx tx
  rw [bytesAt_written (s := s) (sp := .name) hn, bytesAt_written (s := s.redraw rx tx k) (sp := .name) hn]

/-- From `s` a rule completes, and the buffers and the draws make no difference to what it answers: each buffer's old contents
go into that buffer's new contents alone. The draws may differ as far as the name stays the same. -/
def ReadsNoStale (rule : State → Result) (s : State) : Prop :=
  ∃ (t : State) (onRx onTx : Memory → Memory), ∀ rx tx k, NameKept s k →
    rule (s.redraw rx tx k) = .next (t.redraw (onRx rx) (onTx tx) k)

/-- A rule that answers one next state whatever the buffers and the draws, and writes neither buffer. -/
theorem ReadsNoStale.of_next {rule : State → Result} {s t : State}
    (h : ∀ rx tx k, rule (s.redraw rx tx k) = .next (t.redraw rx tx k)) : ReadsNoStale rule s :=
  ⟨t, id, id, fun rx tx k _ => h rx tx k⟩

/-- A rule that consumes `d` first and writes no buffer after that. -/
theorem ReadsNoStale.of_consume {rule : State → Result} {s t : State} (d : Bytes)
    (h : ∀ rx tx k, rule (s.redraw rx tx k) = .next (t.redraw (rx.write 0 (d.take dgramMax)) tx k)) :
    ReadsNoStale rule s :=
  ⟨t, (·.write 0 (d.take dgramMax)), id, fun rx tx k _ => h rx tx k⟩

/-- A rule that emits the datagram `b` and writes no other buffer. -/
theorem ReadsNoStale.of_transmit {rule : State → Result} {s t : State} (b : Bytes)
    (h : ∀ rx tx k, NameKept s k → rule (s.redraw rx tx k) = .next (t.redraw rx (tx.write 0 b) k)) :
    ReadsNoStale rule s :=
  ⟨t, id, (·.write 0 b), h⟩

/-- A rule that answers as another does, in `s` with any buffers and draws. -/
theorem ReadsNoStale.congr {rule other : State → Result} {s : State} (h : ReadsNoStale other s)
    (heq : ∀ rx tx k, rule (s.redraw rx tx k) = other (s.redraw rx tx k)) : ReadsNoStale rule s := by
  obtain ⟨t, onRx, onTx, ht⟩ := h
  exact ⟨t, onRx, onTx, fun rx tx k hk => (heq rx tx k).trans (ht rx tx k hk)⟩

/-- R503: the payload that is appended is read where the datagram has just been written. -/
theorem downloadReceive_readsNoStale (d : Bytes) (s : State) : ReadsNoStale (downloadReceive d) s := by
  cases hv : decodeDatagram d with
  | error code => exact .of_consume d (t := serverError code (consume d s)) fun rx tx k => by simp [downloadReceive, hv]
  | ack block => exact .of_consume d (t := consume d s) fun rx tx k => by simp [downloadReceive, hv]
  | unrecognized => exact .of_consume d (t := consume d s) fun rx tx k => by simp [downloadReceive, hv]
  | data block off len =>
    obtain ⟨p, rfl, hp, rfl, rfl⟩ := decodeDatagram_eq_data hv
    by_cases hb : block = s.block
    · refine .of_consume (dataBytes block p) (t := emit (.fappend p)
        { consume (dataBytes block p) s with last := finalUnit (4 + p.length), fsm := .dlWriting }) fun rx tx k => ?_
      simp only [downloadReceive, hv, redraw_block, if_pos hb, acceptData_eq hp]
      rfl
    · exact .of_consume (dataBytes block p) (t := consume (dataBytes block p) s) fun rx tx k => by
        simp [downloadReceive, hv, hb]

theorem grantReceive_readsNoStale (d : Bytes) (s : State) : ReadsNoStale (grantReceive d) s := by
  cases hv : decodeDatagram d with
  | error code => exact .of_consume d (t := serverError code (consume d s)) fun rx tx k => by simp [grantReceive, hv]
  | data block off len | ack block | unrecognized =>
    refine .of_consume d (t := requestBlock (consume d s)) fun rx tx k => ?_
    simp only [grantReceive, hv]
    rfl

theorem ackReceive_readsNoStale (d : Bytes) (s : State) : ReadsNoStale (ackReceive d) s := by
  cases hv : decodeDatagram d with
  | error code => exact .of_consume d (t := serverError code (consume d s)) fun rx tx k => by simp [ackReceive, hv]
  | data block off len | unrecognized =>
    exact .of_consume d (t := abort .sequence (consume d s)) fun rx tx k => by simp [ackReceive, hv]
  | ack block =>
    by_cases hb : block = s.block
    · refine .of_consume d (t := requestBlock { consume d s with block := s.block + 1 }) fun rx tx k => ?_
      simp only [ackReceive, hv, redraw_block, hb, if_true]
      rfl
    · exact .of_consume d (t := abort .sequence (consume d s)) fun rx tx k => by simp [ackReceive, hv, hb]

theorem receive_readsNoStale (d : Bytes) (s : State) : ReadsNoStale (receive d) s := by
  cases hr : s.row.rx with
  | download => exact (downloadReceive_readsNoStale d s).congr fun rx tx k => by simp only [receive, redraw_row, hr]
  | grant => exact (grantReceive_readsNoStale d s).congr fun rx tx k => by simp only [receive, redraw_row, hr]
  | ack => exact (ackReceive_readsNoStale d s).congr fun rx tx k => by simp only [receive, redraw_row, hr]
  | noStep => exact .of_next (t := s) fun rx tx k => by simp only [receive, redraw_row, hr]

/-- R458: an open that succeeded, once the name has been read and the request encoded. -/
theorem sendRequest_of_encoded {s : State} {n b : Bytes} (hn : readName { s with fileOpen := true } = .ok n)
    (hb : encodeRequest (s.op.setWidth 16) n modeString = .ok b) (hl : b.length ≤ dgramMax) :
    sendRequest s = .next
      { putTx b { s with fileOpen := true } with fsm := if s.op = 1 then .dlAwaitFirst else .ulAwaitGrant } := by
  simp only [sendRequest, hn, orFault_ok, hb, emitEncoded_ok hl]

/-- R458: the request is built from the name's bytes, which are kept. -/
theorem sendRequest_readsNoStale {s t : State} (h : sendRequest s = .next t) : ReadsNoStale sendRequest s := by
  obtain ⟨n, hn, h⟩ := orFault_eq_next h
  obtain ⟨u, hu, -⟩ := orFault_eq_next h
  obtain ⟨b, hb, hl, -⟩ := emitEncoded_eq_ok hu
  obtain ⟨hbound, hname⟩ := readName_eq_ok hn
  refine .of_transmit b (t := { putTx b { s with fileOpen := true } with
    fsm := if s.op = 1 then .dlAwaitFirst else .ulAwaitGrant }) fun rx tx k hk => ?_
  have hsame : State.bytesAt { s.redraw rx tx k with fileOpen := true } .name 0 s.namelen.toNat = n := calc
    _ = (s.redraw rx tx k).bytesAt .name 0 s.namelen.toNat := bytesAt_fileOpen (s.redraw rx tx k) true .name 0 _
    _ = s.bytesAt .name 0 s.namelen.toNat := hk rx tx
    _ = n := (hname.trans (bytesAt_fileOpen s true .name 0 _)).symm
  have hread : readName { s.redraw rx tx k with fileOpen := true } = .ok n :=
    (readName_ok (s := { s.redraw rx tx k with fileOpen := true }) hbound).trans (congrArg _ hsame)
  exact sendRequest_of_encoded (s := s.redraw rx tx k) hread hb hl

theorem appended_readsNoStale (s : State) : ReadsNoStale appended s := by
  cases hl : s.last with
  | true =>
    refine .of_transmit (ackBytes s.block) (t := finish { putTx (ackBytes s.block) s with block := s.block + 1 })
      fun rx tx k _ => ?_
    rw [appended_eq, redraw_last, if_pos hl, ← finish_redraw]
    rfl
  | false =>
    refine .of_transmit (ackBytes s.block)
      (t := { putTx (ackBytes s.block) s with block := s.block + 1, fsm := .dlAwaitNext }) fun rx tx k _ => ?_
    rw [appended_eq, redraw_last, hl]
    rfl

theorem sendBlock_readsNoStale {data : Bytes} (h : data.length ≤ payloadMax) (s : State) :
    ReadsNoStale (sendBlock data) s := by
  by_cases hf : data.length < payloadMax
  · refine .of_transmit (dataBytes s.block data) (t := finish (putTx (dataBytes s.block data) s)) fun rx tx k _ => ?_
    rw [sendBlock_eq h, if_pos hf, redraw_block, putTx_redraw, finish_redraw]
  · refine .of_transmit (dataBytes s.block data)
      (t := { putTx (dataBytes s.block data) s with fsm := .ulAwaitAck }) fun rx tx k _ => ?_
    rw [sendBlock_eq h, if_neg hf]
    rfl

theorem execStart_readsNoStale (op : U16) (name : Bytes) (s : State) : ReadsNoStale (execStart op name) s := by
  cases hr : s.row.start with
  | run => exact .of_next (t := startSession op name s) fun rx tx k => by simp [execStart, hr]
  | reject => exact .of_next (t := rejectCommand 0x01 s) fun rx tx k => by simp [execStart, hr]
  | noStep => exact .of_next (t := s) fun rx tx k => by simp [execStart, hr]

theorem execClear_readsNoStale (s : State) : ReadsNoStale execClear s := by
  cases hr : s.row.clear with
  | run => exact .of_next (t := returnToIdle s) fun rx tx k => by simp [execClear, hr]
  | reject => exact .of_next (t := rejectCommand 0x02 s) fun rx tx k => by simp [execClear, hr]
  | noStep => exact .of_next (t := s) fun rx tx k => by simp [execClear, hr]

theorem execReadStatus_readsNoStale (n : U16) (s : State) : ReadsNoStale (execReadStatus n) s := by
  cases hr : s.row.readStatus with
  | run => exact .of_next (t := emit (.status (statusRegister n s)) s) fun rx tx k => by simp [execReadStatus, hr]
  | reject => exact .of_next (t := rejectCommand 0x03 s) fun rx tx k => by simp [execReadStatus, hr]
  | noStep => exact .of_next (t := s) fun rx tx k => by simp [execReadStatus, hr]

theorem execReservedHost_readsNoStale (tag : Byte) (s : State) : ReadsNoStale (execReservedHost tag) s := by
  cases hr : s.row.reservedHost with
  | run | reject => exact .of_next (t := rejectCommand tag s) fun rx tx k => by simp [execReservedHost, hr]
  | noStep => exact .of_next (t := s) fun rx tx k => by simp [execReservedHost, hr]

theorem execTimeout_readsNoStale (s : State) : ReadsNoStale execTimeout s := by
  cases hr : s.row.timeout with
  | true => exact .of_next (t := abort .timeout s) fun rx tx k => by simp only [execTimeout, redraw_row, hr, abort_redraw]
  | false => exact .of_next (t := s) fun rx tx k => by simp only [execTimeout, redraw_row, hr]

theorem execFopenResp_readsNoStale {ok : Bool} {s t : State} (h : execFopenResp ok s = .next t) :
    ReadsNoStale (execFopenResp ok) s := by
  cases hr : s.row.fopenResp with
  | false => exact .of_next (t := s) fun rx tx k => by simp only [execFopenResp, redraw_row, hr]
  | true =>
    simp only [execFopenResp, hr] at h
    cases ok with
    | false =>
      exact .of_next (t := abort .inputFileOpen s) fun rx tx k => by
        simp only [execFopenResp, redraw_row, hr, Bool.false_eq_true, if_false, abort_redraw]
    | true =>
      exact (sendRequest_readsNoStale h).congr fun rx tx k => by simp only [execFopenResp, redraw_row, hr, if_true]

theorem execFappendResp_readsNoStale (ok : Bool) (s : State) : ReadsNoStale (execFappendResp ok) s := by
  cases hr : s.row.fappendResp with
  | false => exact .of_next (t := s) fun rx tx k => by simp only [execFappendResp, redraw_row, hr]
  | true =>
    cases ok with
    | false =>
      exact .of_next (t := abort .fileIo s) fun rx tx k => by
        simp only [execFappendResp, redraw_row, hr, Bool.false_eq_true, if_false, abort_redraw]
    | true =>
      exact (appended_readsNoStale s).congr fun rx tx k => by simp only [execFappendResp, redraw_row, hr, if_true]

theorem execFreadResp_readsNoStale (ok : Bool) (data : Bytes) (s : State) : ReadsNoStale (execFreadResp ok data) s := by
  cases hr : s.row.freadResp with
  | false => exact .of_next (t := s) fun rx tx k => by simp only [execFreadResp, redraw_row, hr]
  | true =>
    by_cases hc : (!ok || decide (payloadMax < data.length)) = true
    · exact .of_next (t := abort .fileIo s) fun rx tx k => by
        simp only [execFreadResp, redraw_row, hr, if_pos hc, abort_redraw]
    · have hl : data.length ≤ payloadMax := by simp at hc; omega
      exact (sendBlock_readsNoStale hl s).congr fun rx tx k => by simp only [execFreadResp, redraw_row, hr, if_neg hc]

/-- R14: an output row but TX emits its own event, which it reads from no store. -/
theorem exec_emit_readsNoStale {i : Instr} {e : OutEvent} (h : outputEvent i = some e) (he : ∀ b, e ≠ .tx b) (s : State) :
    ReadsNoStale (exec i) s :=
  .of_next (t := emit e s) fun rx tx k => by rw [exec_eq_emit h he, emit_redraw]

/-- R215: whatever completes reads no stale byte. Each instruction runs the rule its state's line of R452 names, or none. -/
theorem exec_readsNoStale {i : Instr} {s t : State} (h : exec i s = .next t) : ReadsNoStale (exec i) s := by
  cases i with
  | rrq f m => exact receive_readsNoStale (requestBytes 1 f m) s
  | wrq f m => exact receive_readsNoStale (requestBytes 2 f m) s
  | data b p => exact receive_readsNoStale (dataBytes b p) s
  | ack b => exact receive_readsNoStale (ackBytes b) s
  | error c m => exact receive_readsNoStale (errorBytes c m) s
  | unrecognized d => exact receive_readsNoStale d s
  | rx d => exact receive_readsNoStale d s
  | start op name => exact execStart_readsNoStale op name s
  | clear => exact execClear_readsNoStale s
  | readStatus n => exact execReadStatus_readsNoStale n s
  | timeout => exact execTimeout_readsNoStale s
  | fopenResp ok => exact execFopenResp_readsNoStale h
  | fappendResp ok => exact execFappendResp_readsNoStale ok s
  | freadResp ok data => exact execFreadResp_readsNoStale ok data s
  | reservedHost tag => exact execReservedHost_readsNoStale tag s
  | tx b =>
    obtain ⟨u, hu, -⟩ := orFault_eq_next (r := emitTx b s) h
    obtain ⟨hl, -⟩ := emitTx_eq_ok hu
    exact .of_transmit b (t := putTx b s) fun rx tx k _ => by simp [exec, execTx, emitTx_ok hl]
  | fopen dir name | fappend p | fread | fclose | endSession o r c x | status v | reject tag =>
    exact exec_emit_readsNoStale rfl (by simp) s

/-- Settles O44: by `exec_readsNoStale`, read at `s` itself, at other buffers, and at the draws of another reset. -/
theorem staleBufferBytesUnread : Obligations.StaleBufferBytesUnread := by
  intro i s t h
  obtain ⟨v, onRx, onTx, hv⟩ := exec_readsNoStale h
  have hown : exec i s = .next (v.redraw (onRx s.rxbuf) (onTx s.txbuf) s.draws) :=
    hv s.rxbuf s.txbuf s.draws (nameKept_own_draws s)
  obtain rfl : v.redraw (onRx s.rxbuf) (onTx s.txbuf) s.draws = t := by
    rw [h] at hown
    injection hown with e
    exact e.symm
  exact ⟨fun rx tx => ⟨_, hv rx tx s.draws (nameKept_own_draws s), rfl⟩, fun hs k => hv s.rxbuf s.txbuf k (hs.nameKept k)⟩

end Sys2Proof.Machine

namespace Sys2Proof.Machine

/-! ### What the next step takes (R451, R14; log 9, log 19) -/

/-- R451: an event the state enables is taken from the front of the offers. -/
theorem fetch_of_enabled {cfg : Config} {f : FsmState} {p : Port} {bytes : Bytes} {i : Instr}
    (hd : decode p bytes = .ok i) (he : enabled cfg f i = true) (rest : List Offer) :
    fetch cfg f (.event p bytes :: rest) = .event i rest := by
  simp only [fetch, hd, he, if_true]

/-- R14: an event the state does not enable is passed over, and stays in front of the offers left. -/
theorem fetch_of_not_enabled {cfg : Config} {f : FsmState} {p : Port} {bytes : Bytes} {i : Instr}
    (hd : decode p bytes = .ok i) (he : enabled cfg f i = false) (rest : List Offer) :
    fetch cfg f (.event p bytes :: rest) = (fetch cfg f rest).keep (.event p bytes) := by
  simp only [fetch, hd, he, Bool.false_eq_true, if_false]

/-- Log 9: bytes that are no event stop the search, whatever the state enables. -/
theorem fetch_of_undecodable {p : Port} {bytes : Bytes} {e : DecodeError} (hd : decode p bytes = .error e)
    (cfg : Config) (f : FsmState) (rest : List Offer) : fetch cfg f (.event p bytes :: rest) = .undecodable e := by
  simp only [fetch, hd]

/-- Log 19: a word that decodes stands for an event whose bytes decode. -/
theorem tableOffer_of_decodeTableWord {nbits w : Nat} {i : Instr} (h : decodeTableWord nbits w = some i) :
    ∃ p bytes, tableOffer nbits w = .event p bytes ∧ decode p bytes = .ok i := by
  unfold decodeTableWord at h
  split at h
  · rename_i p bytes ho
    refine ⟨p, bytes, ho, ?_⟩
    cases hd : decode p bytes <;> rw [hd] at h <;> cases h
    rfl
  · cases h

/-- Settles O5: the word's event is the only offer, so the step takes it where it is enabled and finds nothing where it is
not. -/
theorem stepRunsTableWord : Obligations.StepRunsTableWord := by
  intro s nbits w i h
  obtain ⟨p, bytes, ho, hd⟩ := tableOffer_of_decodeTableWord h
  constructor <;> intro he
  · have hf : fetch s.cfg s.fsm [.event p bytes] = .event i [] := fetch_of_enabled hd he []
    simp only [step, State.withFetchWord, ho, hf]
  · have hf : fetch s.cfg s.fsm [.event p bytes] = .idle := fetch_of_not_enabled hd he []
    simp only [step, State.withFetchWord, ho, hf]

/-- Settles O7: the first offer stops the search, before the state is looked at. -/
theorem undecodableOfferIsRefused : Obligations.UndecodableOfferIsRefused := by
  intro s rest p bytes e ho hd
  unfold step
  simp only [ho, fetch_of_undecodable hd]

/-! ### The datagram decoder's verdicts (R308) -/

/-- R12: the value of two bytes, most significant first. -/
theorem be16_toNat (hi lo : Byte) : (be16 hi lo).toNat = hi.toNat * 256 + lo.toNat := by
  rw [be16, BitVec.toNat_ofNat]
  exact Nat.mod_eq_of_lt (by have := hi.isLt; have := lo.isLt; omega)

theorem be16_eq_iff {hi lo : Byte} {v : U16} : be16 hi lo = v ↔ hi.toNat * 256 + lo.toNat = v.toNat := by
  rw [← BitVec.toNat_inj, be16_toNat]

/-- R431: a datagram with an opcode is decoded by the opcode's value. -/
theorem decodeDatagram_cons (o0 o1 : Byte) (rest : Bytes) :
    decodeDatagram (o0 :: o1 :: rest) =
      if o0.toNat * 256 + o1.toNat = 3 then decodeData (o0 :: o1 :: rest) rest
      else if o0.toNat * 256 + o1.toNat = 4 then decodeAck rest
      else if o0.toNat * 256 + o1.toNat = 5 then decodeError rest
      else .unrecognized := by
  simp only [decodeDatagram, be16_eq_iff]
  rfl

/-- R431: a datagram too short for an opcode. -/
theorem decodeDatagram_short {d : Bytes} (h : d.length < 2) : decodeDatagram d = .unrecognized := by
  unfold decodeDatagram
  split
  · simp at h
  · rfl

/-- R432: no other length is a Data datagram's. -/
theorem decodeData_of_length {d : Bytes} (h : d.length < hdrLen ∨ dgramMax < d.length) (rest : Bytes) :
    decodeData d rest = .unrecognized := if_pos h

/-- R432: within the bounds, the two bytes after the opcode are the block. -/
theorem decodeData_fits {d : Bytes} (h : hdrLen ≤ d.length ∧ d.length ≤ dgramMax) (b0 b1 : Byte) (p : Bytes) :
    decodeData d (b0 :: b1 :: p) = .data (be16 b0 b1) hdrLen (d.length - hdrLen) := if_neg (by omega)

/-- R433: no other length is an Ack's. -/
theorem decodeAck_of_length_ne {rest : Bytes} (h : rest.length ≠ 2) : decodeAck rest = .unrecognized := by
  unfold decodeAck
  split
  · exact absurd rfl h
  · rfl

/-- R434: an Error too short for its code. -/
theorem decodeError_short {rest : Bytes} (h : rest.length < 2) : decodeError rest = .unrecognized := by
  unfold decodeError
  split
  · simp at h
  · rfl

/-- Settles O54: the opcode's value selects the format's decoder, whose own length check gives the row. -/
theorem decoderVerdictsByRow : Obligations.DecoderVerdictsByRow := by
  refine ⟨fun d => decodeDatagram_short, fun o0 o1 rest => ?_⟩
  intro op L
  have hlen : (o0 :: o1 :: rest).length = L := Nat.add_comm rest.length 2
  rw [decodeDatagram_cons]
  refine ⟨?_, fun hop hL => ?_, ?_, fun hop hL => ?_, ?_, fun hop hL => ?_, fun h3 h4 h5 => ?_⟩
  · rintro b0 b1 p rfl hop hL
    have hdata := decodeData_fits (d := o0 :: o1 :: b0 :: b1 :: p) ⟨Nat.le_add_left 4 p.length, hlen ▸ hL⟩ b0 b1 p
    exact ⟨be16 b0 b1, by rw [if_pos hop, hdata, hlen], be16_toNat b0 b1⟩
  · rw [if_pos hop]
    exact decodeData_of_length (hlen ▸ hL) rest
  · rintro b0 b1 rfl hop
    rw [if_neg (by omega), if_pos hop]
    exact ⟨be16 b0 b1, rfl, be16_toNat b0 b1⟩
  · rw [if_neg (by omega), if_pos hop, decodeAck_of_length_ne (by omega)]
  · rintro b0 b1 m rfl hop
    rw [if_neg (by omega), if_neg (by omega), if_pos hop]
    exact ⟨be16 b0 b1, rfl, be16_toNat b0 b1⟩
  · rw [if_neg (by omega), if_neg (by omega), if_pos hop, decodeError_short (by omega)]
  · rw [if_neg h3, if_neg h4, if_neg h5]

/-! ### One-byte operands (log 9): each reading is the inverse of its writing -/

@[simp] theorem boolOfByte_byteOfBool (ok : Bool) : boolOfByte (byteOfBool ok) = some ok := by
  cases ok <;> rfl

@[simp] theorem dirOfByte_byteOfDir (dir : Dir) : dirOfByte (byteOfDir dir) = some dir := by
  cases dir <;> rfl

@[simp] theorem outcomeOfByte_byteOfOutcome (o : SessionOutcome) : outcomeOfByte (byteOfOutcome o) = some o := by
  cases o <;> rfl

@[simp] theorem reasonOfByte_code (r : Reason) : reasonOfByte (r.code.setWidth 8) = some r := by
  cases r <;> rfl

@[simp] theorem u3OfByte_setWidth (x : BitVec 3) : u3OfByte (x.setWidth 8) = some x := by
  have hx : (x.setWidth 8).toNat < 8 := by bv_omega
  rw [u3OfByte, if_pos hx, BitVec.setWidth_setWidth_of_le x (by decide), BitVec.setWidth_eq]

theorem eq_byteOfBool {b : Byte} {ok : Bool} (h : boolOfByte b = some ok) : b = byteOfBool ok := by
  unfold boolOfByte at h
  split_ifs at h <;> cases h <;> assumption

theorem eq_byteOfDir {b : Byte} {dir : Dir} (h : dirOfByte b = some dir) : b = byteOfDir dir := by
  unfold dirOfByte at h
  split_ifs at h <;> cases h <;> assumption

theorem eq_byteOfOutcome {b : Byte} {o : SessionOutcome} (h : outcomeOfByte b = some o) : b = byteOfOutcome o := by
  unfold outcomeOfByte at h
  split_ifs at h <;> cases h <;> assumption

theorem eq_code_of_reasonOfByte {b : Byte} {r : Reason} (h : reasonOfByte b = some r) : b = r.code.setWidth 8 := by
  unfold reasonOfByte at h
  split_ifs at h <;> cases h <;> assumption

theorem eq_setWidth_of_u3OfByte {b : Byte} {x : BitVec 3} (h : u3OfByte b = some x) : b = x.setWidth 8 := by
  unfold u3OfByte at h
  split_ifs at h
  cases h
  bv_omega

/-! ### Events (R311, R312): an operand parser reads exactly the bytes that are the operands' layout -/

section Operands

variable {tag : Byte} {args : Bytes} {i : Instr}

theorem noOperand_eq_ok_iff {j : Instr} : noOperand tag j args = .ok i ↔ args = [] ∧ i = j := by
  cases args <;> simp [noOperand, eq_comm]

theorem oneU16_eq_ok_iff {mk : U16 → Instr} : oneU16 tag mk args = .ok i ↔ ∃ v, args = put16 v ∧ i = mk v := by
  constructor
  · intro h
    unfold oneU16 at h
    split at h
    · rename_i hi lo
      cases h
      exact ⟨be16 hi lo, (put16_be16 hi lo).symm, rfl⟩
    · cases h
    · cases h
  · rintro ⟨v, rfl, rfl⟩
    rw [put16_cons, oneU16, be16_put16]

theorem oneFlag_eq_ok_iff {mk : Bool → Instr} :
    oneFlag tag mk args = .ok i ↔ ∃ ok, args = [byteOfBool ok] ∧ i = mk ok := by
  constructor
  · intro h
    unfold oneFlag at h
    split at h
    · split at h
      · rename_i ok hb
        cases h
        exact ⟨ok, by rw [eq_byteOfBool hb], rfl⟩
      · cases h
    · cases h
    · cases h
  · rintro ⟨ok, rfl, rfl⟩
    simp only [oneFlag, boolOfByte_byteOfBool]

theorem parseStart_eq_ok_iff : parseStart args = .ok i ↔ ∃ op name, args = put16 op ++ name ∧ i = .start op name := by
  constructor
  · intro h
    unfold parseStart at h
    split at h
    · rename_i hi lo name
      cases h
      exact ⟨be16 hi lo, name, by rw [put16_be16]; rfl, rfl⟩
    · cases h
  · rintro ⟨op, name, rfl, rfl⟩
    simp only [put16_cons, List.cons_append, List.nil_append, parseStart, be16_put16]

theorem parseFreadResp_eq_ok_iff :
    parseFreadResp args = .ok i ↔ ∃ ok data, args = byteOfBool ok :: data ∧ i = .freadResp ok data := by
  constructor
  · intro h
    unfold parseFreadResp at h
    split at h
    · split at h
      · rename_i data _ ok hb
        cases h
        exact ⟨ok, data, by rw [eq_byteOfBool hb], rfl⟩
      · cases h
    · cases h
  · rintro ⟨ok, data, rfl, rfl⟩
    simp only [parseFreadResp, boolOfByte_byteOfBool]

theorem parseFopen_eq_ok_iff :
    parseFopen args = .ok i ↔ ∃ dir name, args = byteOfDir dir :: name ∧ i = .fopen dir name := by
  constructor
  · intro h
    unfold parseFopen at h
    split at h
    · split at h
      · rename_i name _ dir hb
        cases h
        exact ⟨dir, name, by rw [eq_byteOfDir hb], rfl⟩
      · cases h
    · cases h
  · rintro ⟨dir, name, rfl, rfl⟩
    simp only [parseFopen, dirOfByte_byteOfDir]

theorem parseEnd_eq_ok_iff :
    parseEnd args = .ok i ↔ ∃ o r code index,
      args = byteOfOutcome o :: r.code.setWidth 8 :: (put16 code ++ [index.setWidth 8]) ∧
      i = .endSession o r code index := by
  constructor
  · intro h
    unfold parseEnd at h
    split at h
    · split at h
      · rename_i hi lo _ _ _ _ o r index ho hr hx
        cases h
        refine ⟨o, r, be16 hi lo, index, ?_, rfl⟩
        rw [eq_byteOfOutcome ho, eq_code_of_reasonOfByte hr, eq_setWidth_of_u3OfByte hx, put16_be16]
        rfl
      · cases h
    · cases h
    · cases h
  · rintro ⟨o, r, code, index, rfl, rfl⟩
    simp only [put16_cons, List.cons_append, List.nil_append, parseEnd, outcomeOfByte_byteOfOutcome,
      reasonOfByte_code, u3OfByte_setWidth, be16_put16]

theorem parseReject_eq_ok_iff : parseReject args = .ok i ↔ ∃ t, args = [t] ∧ i = .reject t := by
  constructor
  · intro h
    unfold parseReject at h
    split at h <;> cases h
    exact ⟨_, rfl, rfl⟩
  · rintro ⟨t, rfl, rfl⟩
    rfl

/-! ### Ports (R311, R312): what a port's parser reads is that port's, laid out as `encode` writes it -/

/-- R311: the one exception is a reserved tag, whose following bytes are dropped (log 10). -/
theorem parseHost_eq_ok (h : parseHost tag args = .ok i) :
    i.port = .host ∧ (encode i = tag :: args ∨ i = .reservedHost tag) := by
  unfold parseHost at h
  split_ifs at h with h1 h2 h3
  · obtain ⟨op, name, rfl, rfl⟩ := parseStart_eq_ok_iff.1 h
    exact ⟨rfl, .inl (by rw [h1]; rfl)⟩
  · obtain ⟨rfl, rfl⟩ := noOperand_eq_ok_iff.1 h
    exact ⟨rfl, .inl (by rw [h2]; rfl)⟩
  · obtain ⟨n, rfl, rfl⟩ := oneU16_eq_ok_iff.1 h
    exact ⟨rfl, .inl (by rw [h3]; rfl)⟩
  · cases h
    exact ⟨rfl, .inr rfl⟩

theorem parseChannel_eq_ok (h : parseChannel tag args = .ok i) : i.port = .channel ∧ encode i = tag :: args := by
  unfold parseChannel at h
  split_ifs at h with h1
  cases h
  exact ⟨rfl, by rw [h1]; rfl⟩

theorem parseGuard_eq_ok (h : parseGuard tag args = .ok i) : i.port = .guard ∧ encode i = tag :: args := by
  unfold parseGuard at h
  split_ifs at h with h1
  obtain ⟨rfl, rfl⟩ := noOperand_eq_ok_iff.1 h
  exact ⟨rfl, by rw [h1]; rfl⟩

theorem parseFile_eq_ok (h : parseFile tag args = .ok i) : i.port = .file ∧ encode i = tag :: args := by
  unfold parseFile at h
  split_ifs at h with h1 h2 h3
  · obtain ⟨ok, rfl, rfl⟩ := oneFlag_eq_ok_iff.1 h
    exact ⟨rfl, by rw [h1]; rfl⟩
  · obtain ⟨ok, rfl, rfl⟩ := oneFlag_eq_ok_iff.1 h
    exact ⟨rfl, by rw [h2]; rfl⟩
  · obtain ⟨ok, data, rfl, rfl⟩ := parseFreadResp_eq_ok_iff.1 h
    exact ⟨rfl, by rw [h3]; rfl⟩

theorem parseChannelOut_eq_ok (h : parseChannelOut tag args = .ok i) :
    i.port = .channelOut ∧ encode i = tag :: args := by
  unfold parseChannelOut at h
  split_ifs at h with h1
  cases h
  exact ⟨rfl, by rw [h1]; rfl⟩

theorem parseFileOut_eq_ok (h : parseFileOut tag args = .ok i) : i.port = .fileOut ∧ encode i = tag :: args := by
  unfold parseFileOut at h
  split_ifs at h with h1 h2 h3 h4
  · obtain ⟨dir, name, rfl, rfl⟩ := parseFopen_eq_ok_iff.1 h
    exact ⟨rfl, by rw [h1]; rfl⟩
  · cases h
    exact ⟨rfl, by rw [h2]; rfl⟩
  · obtain ⟨rfl, rfl⟩ := noOperand_eq_ok_iff.1 h
    exact ⟨rfl, by rw [h3]; rfl⟩
  · obtain ⟨rfl, rfl⟩ := noOperand_eq_ok_iff.1 h
    exact ⟨rfl, by rw [h4]; rfl⟩

theorem parseHostOut_eq_ok (h : parseHostOut tag args = .ok i) : i.port = .hostOut ∧ encode i = tag :: args := by
  unfold parseHostOut at h
  split_ifs at h with h1 h2 h3
  · obtain ⟨o, r, code, index, rfl, rfl⟩ := parseEnd_eq_ok_iff.1 h
    exact ⟨rfl, by rw [h1]; rfl⟩
  · obtain ⟨v, rfl, rfl⟩ := oneU16_eq_ok_iff.1 h
    exact ⟨rfl, by rw [h2]; rfl⟩
  · obtain ⟨t, rfl, rfl⟩ := parseReject_eq_ok_iff.1 h
    exact ⟨rfl, by rw [h3]; rfl⟩

end Operands

/-! ### Datagrams (R301 to R305, R431, R436) -/

/-- Every byte string is the encoding of the row it decodes to, which stands at the wire. -/
theorem encode_decodeWire (d : Bytes) : (decodeWire d).port = .wire ∧ encode (decodeWire d) = d := by
  unfold decodeWire
  split
  · rename_i block off len h
    obtain ⟨p, rfl, -, rfl, rfl⟩ := decodeDatagram_eq_data h
    exact ⟨rfl, by rw [dataBytes_drop, List.take_length]; rfl⟩
  · rename_i block h
    exact ⟨rfl, (decodeDatagram_eq_ack h).symm⟩
  · rename_i code h
    obtain ⟨t, rfl⟩ := decodeDatagram_eq_error h
    exact ⟨rfl, by rw [errorBytes_drop]; rfl⟩
  · split
    · rename_i op f m h
      obtain ⟨rfl, rfl | rfl, -, -⟩ := decodeRequest_eq_request h <;> exact ⟨rfl, rfl⟩
    · exact ⟨rfl, rfl⟩

/-- R302: the bounds of an RRQ row, and of a WRQ row alike, keep NULs out of both strings. -/
theorem noNul_of_request_wf {f m : Bytes} (hw : (Instr.rrq f m).wf = true) : hasNul f = false ∧ hasNul m = false := by
  simp only [Instr.wf, Bool.and_eq_true, Bool.not_eq_true'] at hw
  exact hw.1

/-- R437's law for the whole wire: a well-formed datagram row is what its bytes decode to. -/
theorem decodeWire_encode {i : Instr} (hp : i.port = .wire) (hw : i.wf = true) : decodeWire (encode i) = i := by
  cases i with
  | rrq f m =>
    obtain ⟨hf, hm⟩ := noNul_of_request_wf hw
    simp only [encode, decodeWire, decodeDatagram_request (.inl rfl), decodeRequest_request (.inl rfl) hf hm]
    rfl
  | wrq f m =>
    obtain ⟨hf, hm⟩ := noNul_of_request_wf hw
    simp only [encode, decodeWire, decodeDatagram_request (.inr rfl), decodeRequest_request (.inr rfl) hf hm]
    rfl
  | data block p =>
    have hl : p.length ≤ payloadMax := of_decide_eq_true hw
    simp only [encode, decodeWire, decodeDatagram_data block hl, dataBytes_drop, List.take_length]
  | ack block => simp only [encode, decodeWire, decodeDatagram_ack]
  | error code t => simp only [encode, decodeWire, decodeDatagram_error, errorBytes_drop]
  | unrecognized d =>
    simp only [Instr.wf, Bool.and_eq_true, decide_eq_true_eq] at hw
    obtain ⟨⟨-, hd⟩, hr⟩ := hw
    simp only [encode, decodeWire, hd, hr]
  | _ => cases hp

/-! ### The two round trips -/

/-- The decoder is the port's parser and the operand bounds, nothing more. -/
theorem decode_eq_ok_iff {p : Port} {bytes : Bytes} {i : Instr} :
    decode p bytes = .ok i ↔ parse p bytes = .ok i ∧ i.wf = true := by
  unfold decode
  split
  · rename_i j hj
    split_ifs with hw
    · rw [hj]
      exact ⟨fun h => ⟨h, by cases h; exact hw⟩, And.left⟩
    · exact ⟨nofun, fun ⟨h, hi⟩ => absurd (by rw [hj] at h; cases h; exact hi) hw⟩
  · rename_i e he
    simp [he]

/-- R311: a well-formed reserved tag is none of the three host commands. -/
theorem parseHost_reserved {tag : Byte} (hw : (Instr.reservedHost tag).wf = true) (args : Bytes) :
    parseHost tag args = .ok (.reservedHost tag) := by
  have ht : tag = 0 ∨ 4 ≤ tag.toNat := by simpa [Instr.wf] using hw
  have hne : tag ≠ 0x01 ∧ tag ≠ 0x02 ∧ tag ≠ 0x03 := by
    refine ⟨?_, ?_, ?_⟩ <;> rintro rfl <;> revert ht <;> decide
  obtain ⟨h1, h2, h3⟩ := hne
  rw [parseHost, if_neg h1, if_neg h2, if_neg h3]

/-- R301 to R305, R311, R312: at its port, a well-formed instruction's encoding parses to it. -/
theorem parse_encode {i : Instr} (hw : i.wf = true) : parse i.port (encode i) = .ok i := by
  cases i with
  | rrq | wrq | data | ack | error | unrecognized => exact congrArg Except.ok (decodeWire_encode rfl hw)
  | start op name => exact parseStart_eq_ok_iff.2 ⟨op, name, rfl, rfl⟩
  | readStatus n => exact (oneU16_eq_ok_iff (tag := 0x03)).2 ⟨n, rfl, rfl⟩
  | reservedHost tag => exact parseHost_reserved hw []
  | fopenResp ok => exact oneFlag_eq_ok_iff.2 ⟨ok, rfl, rfl⟩
  | fappendResp ok => exact oneFlag_eq_ok_iff.2 ⟨ok, rfl, rfl⟩
  | freadResp ok data => exact parseFreadResp_eq_ok_iff.2 ⟨ok, data, rfl, rfl⟩
  | fopen dir name => exact parseFopen_eq_ok_iff.2 ⟨dir, name, rfl, rfl⟩
  | endSession o r code index => exact parseEnd_eq_ok_iff.2 ⟨o, r, code, index, rfl, rfl⟩
  | status v => exact (oneU16_eq_ok_iff (tag := 0xA1)).2 ⟨v, rfl, rfl⟩
  | clear | rx | timeout | tx | fappend | fread | fclose | reject => rfl

/-- R301 to R305, R311, R312: what a port's bytes parse to is that port's, and its encoding is the bytes, but for what
follows a reserved host tag (log 10). -/
theorem parse_eq_ok {p : Port} {bytes : Bytes} {i : Instr} (h : parse p bytes = .ok i) :
    i.port = p ∧ (encode i = bytes ∨ ∃ tag rest, i = .reservedHost tag ∧ bytes = tag :: rest) := by
  unfold parse at h
  split at h
  · cases h
    exact (encode_decodeWire bytes).imp_right .inl
  · cases h
  · obtain ⟨hp, he | hr⟩ := parseHost_eq_ok h
    · exact ⟨hp, .inl he⟩
    · exact ⟨hp, .inr ⟨_, _, hr, rfl⟩⟩
  · exact (parseChannel_eq_ok h).imp_right .inl
  · exact (parseGuard_eq_ok h).imp_right .inl
  · exact (parseFile_eq_ok h).imp_right .inl
  · exact (parseChannelOut_eq_ok h).imp_right .inl
  · exact (parseFileOut_eq_ok h).imp_right .inl
  · exact (parseHostOut_eq_ok h).imp_right .inl

/-- Settles O50: `parse_encode`, and the operand bounds hold by hypothesis. -/
theorem decodeEncodeRoundTrip : Obligations.DecodeEncodeRoundTrip :=
  fun _ hw => decode_eq_ok_iff.2 ⟨parse_encode hw, hw⟩

/-- Settles O51: the decoder has checked the operand bounds, and `parse_eq_ok` says the rest. -/
theorem encodeOfDecoded : Obligations.EncodeOfDecoded := by
  intro p bytes i h
  obtain ⟨hparse, hw⟩ := decode_eq_ok_iff.1 h
  exact ⟨hw, parse_eq_ok hparse⟩

/-- Settles O53: each word is short enough to decode by evaluation. -/
theorem decodedWordsOfEachFamily : Obligations.DecodedWordsOfEachFamily := by
  unfold Obligations.DecodedWordsOfEachFamily
  decide

end Sys2Proof.Machine

namespace Sys2Proof.Machine

/-! ### No fault under the invariant (R413, R553, R615) -/

/-- R452, R453: in every state, a datagram's delivery completes. -/
theorem receive_completes (d : Bytes) (s : State) : ∃ t, receive d s = .next t := by
  cases hr : receiving s.fsm with
  | true =>
    obtain ⟨t, ht, -⟩ := receive_consumes hr d
    exact ⟨t, ht⟩
  | false => exact ⟨s, receive_of_not_receiving hr d⟩

/-- R413, R458: with the invariant the request of the opened session has an encoding, and it fits `TXBUF`. -/
theorem EngineInv.sendRequest_completes {s : State} (hs : EngineInv s) (hf : s.fsm = .opening) :
    ∃ t, sendRequest s = .next t := by
  obtain ⟨name, hname, hz⟩ := hs.nameWritten
  have hbytes : s.bytesAt .name 0 s.namelen.toNat = name := bytesAt_written (s := s) (sp := .name) hname
  exact ⟨_, sendRequest_eq (hs.opOpening hf) hs.nameBound hbytes hz⟩

theorem EngineInv.execFopenResp_completes {s : State} (hs : EngineInv s) (ok : Bool) :
    ∃ t, execFopenResp ok s = .next t := by
  by_cases hf : s.fsm = .opening
  · cases ok with
    | true => simpa [execFopenResp, hf] using hs.sendRequest_completes hf
    | false => simp [execFopenResp, hf]
  · simp [execFopenResp, hf]

theorem execFappendResp_completes (ok : Bool) (s : State) : ∃ t, execFappendResp ok s = .next t := by
  by_cases hf : s.fsm = .dlWriting
  · cases ok <;> simp [execFappendResp, hf, appended_eq]
  · simp [execFappendResp, hf]

/-- R553, R554: a read over 512 bytes aborts, so the encoder of Data is given no more than it takes. -/
theorem execFreadResp_completes (ok : Bool) (data : Bytes) (s : State) : ∃ t, execFreadResp ok data s = .next t := by
  unfold execFreadResp
  split
  · split_ifs with hc
    · exact ⟨_, rfl⟩
    · have hl : data.length ≤ payloadMax := by simp at hc; exact hc.2
      exact ⟨_, sendBlock_eq hl s⟩
  · exact ⟨_, rfl⟩

/-- Only two rows lean on a hypothesis: `FOPEN_RESP` on the invariant, and `TX` on its bound of 516 bytes (R112). -/
theorem exec_completes {i : Instr} {s : State} (hw : i.wf = true) (hs : EngineInv s) : ∃ t, exec i s = .next t := by
  cases i with
  | rrq | wrq | data | ack | error | unrecognized | rx => exact receive_completes _ s
  | start | clear | readStatus | reservedHost | timeout =>
    simp only [exec, execStart, execClear, execReadStatus, execReservedHost, execTimeout]
    split <;> exact ⟨_, rfl⟩
  | fopenResp ok => exact hs.execFopenResp_completes ok
  | fappendResp ok => exact execFappendResp_completes ok s
  | freadResp ok data => exact execFreadResp_completes ok data s
  | tx b =>
    have hb : b.length ≤ dgramMax := of_decide_eq_true hw
    exact ⟨putTx b s, by simp only [exec, execTx, emitTx_ok hb, orFault_ok]⟩
  | fopen | fappend | fread | fclose | endSession | status | reject => exact ⟨_, exec_eq_emit rfl (by simp) s⟩

/-- Settles O48: progress is `exec_completes`, preservation `exec_keeps_engineInv`. -/
theorem wellFormedInstructionsComplete : Obligations.WellFormedInstructionsComplete := by
  intro i s hw hs
  obtain ⟨t, ht⟩ := exec_completes hw hs
  exact ⟨t, ht, exec_keeps_engineInv ht hs⟩

/-! ### The row of a datagram's bytes (R431, R453; log 7) -/

/-- Log 7: a wire row delivers the bytes it is encoded to. -/
theorem datagramOf_of_wire {i : Instr} (h : i.port = .wire) : datagramOf i = some (encode i) := by
  cases i <;> cases h <;> rfl

/-- The row of a datagram's bytes delivers these bytes. -/
theorem datagramOf_decodeWire (d : Bytes) : datagramOf (decodeWire d) = some d := by
  obtain ⟨hport, henc⟩ := encode_decodeWire d
  rw [datagramOf_of_wire hport, henc]

/-- R211, R302, R303, R308: a datagram the channel can deliver meets the operand bounds of its row. -/
theorem decodeWire_wf {d : Bytes} (hd : d.length ≤ rxMax) : (decodeWire d).wf = true := by
  unfold decodeWire
  split
  · rename_i block off len h
    obtain ⟨p, rfl, hp, rfl, rfl⟩ := decodeDatagram_eq_data h
    rw [dataBytes_drop, List.take_length]
    exact decide_eq_true hp
  · rfl
  · rename_i code h
    obtain ⟨t, rfl⟩ := decodeDatagram_eq_error h
    rw [errorBytes_length, Nat.add_comm] at hd
    rw [errorBytes_drop]
    exact decide_eq_true hd
  · rename_i hv
    split
    · rename_i op f m h
      obtain ⟨rfl, -, hf, hm⟩ := decodeRequest_eq_request h
      rw [requestBytes_length] at hd
      split_ifs <;> simp [Instr.wf, hf, hm, hd]
    · rename_i hr
      simp [Instr.wf, hd, hv, hr]

/-- Settles O18: RX and the row its bytes decode to deliver one datagram, which one rule takes. -/
theorem receptionExecutesDecodedRow : Obligations.ReceptionExecutesDecodedRow := by
  intro d s
  rw [exec_datagram (i := .rx d) rfl, exec_datagram (datagramOf_decodeWire d)]

/-- Settles O52: the row is `decodeWire`'s, which is total, and it meets the operand bounds. -/
theorem everyDatagramHasOneRow : Obligations.EveryDatagramHasOneRow :=
  fun d hd => ⟨decodeWire d, decode_eq_ok_iff.2 ⟨rfl, decodeWire_wf hd⟩, datagramOf_decodeWire d⟩

/-! ### The codec's laws (R411 to R437) -/

/-- Settles O55: each encoder gives the bytes its operands lay out, and each decoder reads them back. -/
theorem codecRoundTripLaw : Obligations.CodecRoundTripLaw :=
  ⟨fun _ _ _ hop hf hm hl => ⟨_, encodeRequest_eq hop hf hm hl, decodeRequest_request hop hf hm⟩,
    fun k _ hp => ⟨_, encodeData_eq k hp, decodeDatagram_data k hp⟩,
    fun k => ⟨_, encodeAck_eq k, decodeDatagram_ack k⟩⟩

/-- Settles O56: one direction is what a recovered request says of the bytes, the other the decoding of laid-out bytes. -/
theorem requestDecoderAcceptsExactly : Obligations.RequestDecoderAcceptsExactly := by
  intro d op f m
  constructor
  · intro h
    obtain ⟨hd, hop, hf, hm⟩ := decodeRequest_eq_request h
    exact ⟨hop, hf, hm, hd⟩
  · rintro ⟨hop, hf, hm, rfl⟩
    exact decodeRequest_request hop hf hm

/-- R411: the check that fails first names the failure. -/
theorem encodeRequest_eq_error_iff (op : U16) (f m : Bytes) :
    (encodeRequest op f m = .error .badOp ↔ op ≠ 1 ∧ op ≠ 2) ∧
    (encodeRequest op f m = .error .embeddedNul ↔ (op = 1 ∨ op = 2) ∧ (hasNul f = true ∨ hasNul m = true)) ∧
    (encodeRequest op f m = .error .tooLong ↔
      (op = 1 ∨ op = 2) ∧ hasNul f = false ∧ hasNul m = false ∧ dgramMax < f.length + m.length + 4) := by
  unfold encodeRequest
  rw [requestBytes_length]
  split_ifs with hop hnul hlong <;> grind

/-- R414: the length is the only check. -/
theorem encodeData_eq_error_iff (k : U16) (p : Bytes) :
    encodeData k p = .error .payloadTooLong ↔ payloadMax < p.length := by
  unfold encodeData
  split_ifs with hlong <;> simp [hlong]

/-- R305: the length of an Error with its terminator. -/
theorem errorBytes_snoc_length (c : U16) (m : Bytes) : (errorBytes c (m ++ [0x00])).length = m.length + 5 := by
  rw [errorBytes_length, List.length_append, List.length_singleton]
  omega

/-- R421: an Error that passes both checks is its code, its message and a NUL. -/
theorem encodeError_eq (c : U16) {m : Bytes} (hm : hasNul m = false) (hl : m.length + 5 ≤ dgramMax) :
    encodeError c m = .ok (errorBytes c (m ++ [0x00])) := by
  rw [encodeError, hm, if_neg Bool.false_ne_true, errorBytes_snoc_length, if_neg (by omega)]

/-- R421: the NULs are checked before the length. -/
theorem encodeError_eq_error_iff (c : U16) (m : Bytes) :
    (encodeError c m = .error .embeddedNul ↔ hasNul m = true) ∧
    (encodeError c m = .error .tooLong ↔ hasNul m = false ∧ dgramMax < m.length + 5) := by
  unfold encodeError
  rw [errorBytes_snoc_length]
  split_ifs with hnul hlong
  · simp [hnul]
  · simp [hnul, hlong]
  · simp [hnul, hlong]

/-- Settles O57: each encoder's operands that pass, its operands that fail, and R434 for the Error it gives. -/
theorem encodersAndTheirFailures : Obligations.EncodersAndTheirFailures := by
  refine ⟨fun op f m hop hf hm hl => encodeRequest_eq hop hf hm hl, fun k p hp => encodeData_eq k hp, encodeAck_eq,
    encodeRequest_eq_error_iff, encodeData_eq_error_iff, fun c m => ?_⟩
  obtain ⟨hnul, hlong⟩ := encodeError_eq_error_iff c m
  refine ⟨hnul, hlong, fun hm hl => ?_⟩
  rw [List.append_assoc _ m [0x00]]
  exact ⟨encodeError_eq c hm hl, decodeDatagram_error c (m ++ [0x00])⟩

/-- Settles O58: the three low bits of a code below 8 are the code. -/
theorem errorIndexInTable : Obligations.ErrorIndexInTable := by
  refine ⟨fun code => ⟨fun h => ?_, fun h => ?_⟩, by decide⟩
  · rw [erridx, if_pos h, BitVec.extractLsb'_toNat, Nat.shiftRight_zero, Nat.mod_eq_of_lt h]
  · have h0 : erridx code = 0 := if_neg (by unfold errTableSize; omega)
    exact ⟨h0, by rw [h0]; rfl⟩

end Sys2Proof.Machine

namespace Sys2Proof.Machine

open Slice0

/-! ### The offer a step takes (R451, R207) -/

/-- An offer a step passes over (R14): an event the state does not enable. -/
def passedOver (cfg : Config) (f : FsmState) (o : Offer) : Prop :=
  ∃ p bytes i, o = .event p bytes ∧ decode p bytes = .ok i ∧ enabled cfg f i = false

/-- R451: the offers passed over stay, in order, in front of the offers behind the event that is taken. -/
theorem fetch_behind_passedOver {cfg : Config} {f : FsmState} {before rest : List Offer} {o : Offer} {i : Instr}
    (hb : ∀ b ∈ before, passedOver cfg f b) (ho : fetch cfg f (o :: rest) = .event i rest) :
    fetch cfg f (before ++ o :: rest) = .event i (before ++ rest) := by
  induction before with
  | nil => exact ho
  | cons b before ih =>
    obtain ⟨⟨q, c, j, hq, hd, he⟩, hbefore⟩ := List.forall_mem_cons.1 hb
    rw [List.cons_append, hq, fetch_of_not_enabled hd he, ih hbefore]
    rfl

/-- Settles O3: the search for an enabled offer passes over those before it and takes it. -/
theorem stepRunsFirstEnabledOffer : Obligations.StepRunsFirstEnabledOffer := by
  intro s before rest p bytes i ho hb hd he
  have hf : fetch s.cfg s.fsm s.offers = .event i (before ++ rest) :=
    ho ▸ fetch_behind_passedOver hb (fetch_of_enabled hd he rest)
  simp only [step, hf]

/-- Settles O4: the case of O3 with nothing passed over. -/
theorem stepRunsDecodedInstruction : Obligations.StepRunsDecodedInstruction :=
  fun s rest p bytes i ho hd he => stepRunsFirstEnabledOffer s [] rest p bytes i ho nofun hd he

/-! ### Which events a state enables (R103, R452) -/

theorem legal_iff {f : FsmState} : f.legal = true ↔ ∀ k, f ≠ .reserved k := by
  cases f <;> simp [FsmState.legal]

theorem receiving_iff {f : FsmState} :
    receiving f = true ↔ f = .dlAwaitFirst ∨ f = .dlAwaitNext ∨ f = .ulAwaitGrant ∨ f = .ulAwaitAck := by
  cases f <;> simp [receiving]

theorem guarded_iff {cfg : Config} {f : FsmState} :
    guarded cfg f = true ↔
      f = .dlAwaitFirst ∨ f = .dlAwaitNext ∨ f = .ulAwaitAck ∨ (f = .ulAwaitGrant ∧ cfg.grantGuarded = true) := by
  cases f <;> simp [guarded]

/-- R452, R462: every named state runs or rejects a host command; a reserved one has no step for it (log 11). -/
theorem enabled_hostCommand {i : Instr} (h : i.port = .host) (cfg : Config) (f : FsmState) :
    enabled cfg f i = f.legal := by
  cases i with
  | start | clear | readStatus | reservedHost => cases f <;> rfl
  | _ => cases h

theorem enabled_timeout (cfg : Config) (f : FsmState) : enabled cfg f .timeout = guarded cfg f := by
  cases f <;> rfl

/-- R452: the file port's answers are enabled one by one, each in the state that waits for it. -/
theorem enabled_fopenResp (cfg : Config) (f : FsmState) (ok : Bool) :
    enabled cfg f (.fopenResp ok) = true ↔ f = .opening := by
  cases f <;> simp [enabled, dispatchRow]

theorem enabled_fappendResp (cfg : Config) (f : FsmState) (ok : Bool) :
    enabled cfg f (.fappendResp ok) = true ↔ f = .dlWriting := by
  cases f <;> simp [enabled, dispatchRow]

theorem enabled_freadResp (cfg : Config) (f : FsmState) (ok : Bool) (data : Bytes) :
    enabled cfg f (.freadResp ok data) = true ↔ f = .ulSending := by
  cases f <;> simp [enabled, dispatchRow]

/-- Settles O9: the host's commands by the named states, a datagram by `receiving`, TIMEOUT by `guarded`, the file port's
answers by the one state that waits for each. -/
theorem eventsEnabledByState : Obligations.EventsEnabledByState := by
  intro cfg f
  have host : ∀ i : Instr, i.port = .host → (enabled cfg f i = true ↔ ∀ k, f ≠ .reserved k) :=
    fun i hi => by rw [enabled_hostCommand hi, legal_iff]
  exact ⟨fun op name => host (.start op name) rfl, host .clear rfl, fun n => host (.readStatus n) rfl,
    fun tag => host (.reservedHost tag) rfl, fun i d hd => by rw [enabled_datagram hd, receiving_iff],
    by rw [enabled_timeout, guarded_iff], enabled_fopenResp cfg f, enabled_fappendResp cfg f, enabled_freadResp cfg f⟩

/-! ### Rejection and CLEAR (R460, R462) -/

theorem exec_start_rejected {s : State} (hs : s.fsm.legal = true) (h : ¬ acceptsStart s.fsm) (op : U16) (name : Bytes) :
    exec (.start op name) s = .next (rejectCommand 0x01 s) := by
  obtain ⟨-, hf⟩ | hr | ⟨-, hf⟩ := row_start s
  · exact absurd hf h
  · simp only [exec, execStart, hr]
  · rw [hs] at hf
    cases hf

theorem exec_clear_rejected {s : State} (hs : s.fsm.legal = true) (h : s.fsm ≠ .done ∧ s.fsm ≠ .aborted) :
    exec .clear s = .next (rejectCommand 0x02 s) := by
  obtain ⟨-, hf⟩ | hr | ⟨-, hf⟩ := row_clear s
  · exact absurd hf (not_or.2 h)
  · simp only [exec, execClear, hr]
  · rw [hs] at hf
    cases hf

theorem exec_clear_of_ended {s : State} (h : s.fsm = .done ∨ s.fsm = .aborted) : exec .clear s = .next (returnToIdle s) := by
  have hr : s.row.clear = .run := by
    unfold State.row
    rcases h with hf | hf <;> rw [hf] <;> rfl
  simp only [exec, execClear, hr]

theorem exec_reservedHost_rejected {s : State} (hs : s.fsm.legal = true) (tag : Byte) :
    exec (.reservedHost tag) s = .next (rejectCommand tag s) := by
  obtain hr | ⟨-, hf⟩ := row_reservedHost s
  · simp only [exec, execReservedHost, hr]
  · rw [hs] at hf
    cases hf

/-- Settles O12: each of the three is `rejectCommand`, which adds the one output. -/
theorem hostCommandsRejected : Obligations.HostCommandsRejected := fun _ hk =>
  have hs := legal_iff.2 hk
  ⟨fun op name h => exec_start_rejected hs h op name, exec_clear_rejected hs, fun tag _ => exec_reservedHost_rejected hs tag⟩

/-- Settles O13: `returnToIdle` writes `STATE` alone, and `rejectCommand` no register. -/
theorem clearReturnsToIdle : Obligations.ClearReturnsToIdle :=
  fun _ hk => ⟨exec_clear_of_ended, exec_clear_rejected (legal_iff.2 hk)⟩

/-! ### READ_STATUS (R115, R461) -/

theorem exec_readStatus {s : State} (hs : s.fsm.legal = true) (n : U16) :
    exec (.readStatus n) s = .next (emit (.status (statusRegister n s)) s) := by
  obtain hr | ⟨-, hf⟩ := row_readStatus s
  · simp only [exec, execReadStatus, hr]
  · rw [hs] at hf
    cases hf

/-- R115, register 6: the two flags are two bits. -/
theorem flagsRegister_toNat (s : State) :
    (flagsRegister s).toNat = (if s.fileOpen then 1 else 0) + (if s.last then 2 else 0) := by
  unfold flagsRegister
  cases s.fileOpen <;> cases s.last <;> rfl

/-- R115: no register is numbered 10 or more. -/
theorem statusRegister_of_ten_le {n : U16} (h : 10 ≤ n.toNat) (s : State) : statusRegister n s = 0 := by
  have hn : ∀ k : U16, k.toNat < 10 → n ≠ k := fun k hk e => by
    rw [e] at h
    omega
  simp only [statusRegister, hn 0 (by decide), hn 1 (by decide), hn 2 (by decide), hn 3 (by decide), hn 4 (by decide),
    hn 5 (by decide), hn 6 (by decide), hn 7 (by decide), hn 8 (by decide), hn 9 (by decide), if_false]

/-- Settles O14: the value is `statusRegister`'s, and widening a register to 16 bits keeps its value. -/
theorem readStatusAnswersRegister : Obligations.ReadStatusAnswersRegister := by
  intro s n hk
  have number : ∀ {k : U16}, n.toNat = k.toNat → n = k := BitVec.eq_of_toNat_eq
  refine ⟨statusRegister n s, exec_readStatus (legal_iff.2 hk) n, fun h => ?_, fun h => ?_, fun h => ?_, fun h => ?_,
    fun h => ?_, fun h => ?_, fun h => ?_, fun h => ?_, fun h => ?_, fun h => ?_, fun h => statusRegister_of_ten_le h s⟩
  · obtain rfl := number (k := 0) h
    exact BitVec.toNat_setWidth_of_le (show 4 ≤ 16 by decide)
  · obtain rfl := number (k := 1) h
    exact BitVec.toNat_setWidth_of_le (show 2 ≤ 16 by decide)
  · obtain rfl := number (k := 2) h
    rfl
  · obtain rfl := number (k := 3) h
    exact BitVec.toNat_setWidth_of_le (show 3 ≤ 16 by decide)
  · obtain rfl := number (k := 4) h
    rfl
  · obtain rfl := number (k := 5) h
    exact BitVec.toNat_setWidth_of_le (show 3 ≤ 16 by decide)
  · obtain rfl := number (k := 6) h
    exact flagsRegister_toNat s
  · obtain rfl := number (k := 7) h
    rfl
  · obtain rfl := number (k := 8) h
    rfl
  · obtain rfl := number (k := 9) h
    rfl

/-! ### START (R456, R457) -/

/-- R611: what the abort procedure emits, in the statements' form. -/
theorem abort_eq_endOutputs (r : Reason) (s : State) : abort r s =
    { s with
        fsm := .aborted, reason := r, fileOpen := false,
        outputs := s.outputs ++ endOutputs s.fileOpen (.endSession .failed r s.errcode s.erridx) } := by
  rw [abort_eq, List.append_assoc]
  rfl

/-- R457: the op is checked first, whatever the name. -/
theorem validate_of_badOp {op : U16} (h : op ≠ 1 ∧ op ≠ 2) (cfg : Config) (name : Bytes) :
    validate cfg op name = some .inputBadOp := if_pos h

/-- R457: with a legal op, a NUL and a length over `MAX_NAME` raise one reason. -/
theorem validate_of_badName {cfg : Config} {op : U16} {name : Bytes} (hop : op = 1 ∨ op = 2)
    (h : hasNul name = true ∨ cfg.maxName.val < name.length) : validate cfg op name = some .inputBadName := by
  cases hv : validate cfg op name with
  | none =>
    obtain ⟨-, hz, hl⟩ := validate_eq_none.1 hv
    rcases h with h | h
    · rw [h] at hz
      cases hz
    · omega
  | some r =>
    obtain ⟨-, h1, h2⟩ | ⟨rfl, -⟩ := validate_eq_some hv
    · rcases hop with e | e
      · exact absurd e h1
      · exact absurd e h2
    · rfl

theorem opRegister_of_legal {op : U16} (h : op = 1 ∨ op = 2) : opRegister op = op.setWidth 2 := by
  rcases h with rfl | rfl <;> rfl

theorem opRegister_of_badOp {op : U16} (h : op ≠ 1 ∧ op ≠ 2) : opRegister op = 0 := by
  obtain ⟨e, -⟩ | ⟨e, -⟩ | ⟨-, -, e⟩ := opRegister_cases op
  · exact absurd e h.1
  · exact absurd e h.2
  · exact e

/-- R457, R611: a failed check aborts with the session registers cleared and `OP` as START set it. -/
theorem startSession_of_invalid {s : State} {op : U16} {name : Bytes} {r : Reason}
    (h : validate s.cfg op name = some r) : startSession op name s =
      { s with
          fsm := .aborted, op := opRegister op, block := 1, last := false, fileOpen := false, reason := r, errcode := 0,
          erridx := 0, namelen := 0, outputs := s.outputs ++ endOutputs s.fileOpen (.endSession .failed r 0 0) } := by
  simp only [startSession, h, abort_eq_endOutputs]
  rfl

/-- R456: a name that passes is latched and the open is asked for. -/
theorem startSession_of_valid {s : State} {op : U16} {name : Bytes} (h : validate s.cfg op name = none) :
    startSession op name s =
      { s with
          fsm := .opening, op := opRegister op, block := 1, last := false, reason := .none, errcode := 0, erridx := 0,
          name := s.name.write 0 name, namelen := BitVec.ofNat 16 name.length,
          outputs := s.outputs ++ [.fopen (openDir op) name] } := by
  simp only [startSession, h]
  rfl

/-- R107: with the invariant, no file is open where START is accepted. -/
theorem EngineInv.fileOpen_of_acceptsStart {s : State} (hs : EngineInv s) (h : acceptsStart s.fsm) :
    s.fileOpen = false := by
  rw [hs.fileOpen]
  rcases h with hf | hf | hf <;> rw [hf] <;> rfl

/-- Settles O10: START's rule runs, and its check of the op and the name decides between the abort and the open. -/
theorem startValidatesAndOpens : Obligations.StartValidatesAndOpens := by
  intro s op name hs
  rw [exec_start_of_acceptsStart hs]
  refine ⟨fun hop => ?_, fun ⟨hop, hname⟩ => ?_, fun ⟨hop, hname⟩ => ?_, fun hinv => hinv.fileOpen_of_acceptsStart hs⟩
  · rw [startSession_of_invalid (validate_of_badOp hop s.cfg name), opRegister_of_badOp hop]
  · rw [startSession_of_invalid (validate_of_badName hop hname), opRegister_of_legal hop]
  · rw [startSession_of_valid (validate_eq_none.2 ⟨hop, hname⟩), opRegister_of_legal hop]
    rfl

/-! ### The open's answer (R412, R458) -/

/-- R12: `OP` as the two bytes of a request's opcode. -/
theorem put16_op (op : BitVec 2) : put16 (op.setWidth 16) = [0x00, op.setWidth 8] := by
  revert op
  decide

/-- R412: the bytes of the session's request. -/
theorem requestBytes_op (op : BitVec 2) (name : Bytes) : requestBytes (op.setWidth 16) name modeString =
    [0x00, op.setWidth 8] ++ name ++ [0x00, 0x6F, 0x63, 0x74, 0x65, 0x74, 0x00] := by
  simp only [requestBytes, put16_op, modeString, List.append_assoc, List.cons_append, List.nil_append]

/-- R109: while a session runs no Error has been recorded. -/
theorem EngineInv.noErrorRecorded {s : State} (hs : EngineInv s) (h : s.fsm.running = true) : noErrorRecorded s := by
  have hcode : s.errcode = 0 := hs.errcodeOnly (by simp [hs.reasonRunning (.inl h)])
  refine ⟨hcode, ?_⟩
  rw [hs.erridxOf, hcode]
  rfl

/-- Settles O16: `sendRequest_eq` for the open that succeeded, with the request's bytes as R412 lays them out, and the abort
procedure for the one that failed. -/
theorem fileOpenAnswerSendsRequest : Obligations.FileOpenAnswerSendsRequest := by
  intro s hf
  refine ⟨fun name hop hlen hname hz => ?_, ?_, fun hs => ⟨?_, hs.noErrorRecorded (by rw [hf]; rfl)⟩⟩
  · have hexec : exec (.fopenResp true) s = sendRequest s := by simp [exec, execFopenResp, hf]
    have hbytes : ([0x00, s.op.setWidth 8] ++ name ++ [0x00, 0x6F, 0x63, 0x74, 0x65, 0x74, 0x00] : Bytes).length =
        name.length + 9 := by
      simp
    rw [hexec, sendRequest_eq hop hlen hname hz, requestBytes_op, ← hbytes]
    rfl
  · have hexec : exec (.fopenResp false) s = .next (abort .inputFileOpen s) := by simp [exec, execFopenResp, hf]
    rw [hexec, abort_eq_endOutputs]
  · rw [hs.fileOpen, hf]
    rfl

/-! ### What an input event sends (R207, R458, R506, R553) -/

/-- R458, R506, R553: the datagram `b` is the one the rule of the input event `i` sends in `s`. -/
def sentBy (i : Instr) (s : State) (b : Bytes) : Prop :=
  (i = .fopenResp true ∧ s.fsm = .opening ∧
    b = requestBytes (s.op.setWidth 16) (s.bytesAt .name 0 s.namelen.toNat) modeString) ∨
  (i = .fappendResp true ∧ s.fsm = .dlWriting ∧ b = ackBytes s.block) ∨
  (∃ data, i = .freadResp true data ∧ s.fsm = .ulSending ∧ b = dataBytes s.block data)

@[simp] theorem filter_isTx_fcloseWhen (o : Bool) : (fcloseWhen o).filter isTx = [] := by
  cases o <;> rfl

/-- R207, inverted: an input event sends nothing, or one datagram, which one of the three sending rules made. -/
theorem exec_sends {i : Instr} {s t : State} (ho : isOutput i = false) (h : exec i s = .next t) :
    (added s t).filter isTx = [] ∨ ∃ b, (added s t).filter isTx = [.tx b] ∧ sentBy i s b := by
  cases exec_effect h with
  | requestSent req hf hl hop hn => exact .inr ⟨req, by simp [added, isTx], .inl ⟨rfl, hf, hn⟩⟩
  | finalAcked hf => exact .inr ⟨_, by simp [added, List.filter_cons, isTx], .inr (.inl ⟨rfl, hf, rfl⟩)⟩
  | unitAcked hf => exact .inr ⟨_, by simp [added, List.filter_cons, isTx], .inr (.inl ⟨rfl, hf, rfl⟩)⟩
  | finalSent data hf => exact .inr ⟨_, by simp [added, List.filter_cons, isTx], .inr (.inr ⟨data, rfl, hf, rfl⟩)⟩
  | unitSent data hf => exact .inr ⟨_, by simp [added, List.filter_cons, isTx], .inr (.inr ⟨data, rfl, hf, rfl⟩)⟩
  | txEmitted => cases ho
  | emitted e hi => rw [ho] at hi; cases hi
  | _ => simp [added, isTx]

/-- Settles O34: by `exec_sends`, an emitted TX is the one datagram of its step. -/
theorem onlyRequestsAcksAndDataSent : Obligations.OnlyRequestsAcksAndDataSent := by
  intro i s t ho h
  have mem_sent : ∀ {b}, .tx b ∈ added s t → .tx b ∈ (added s t).filter isTx := fun hb => List.mem_filter.2 ⟨hb, rfl⟩
  obtain hnone | ⟨b, hsent, hrule⟩ := exec_sends ho h
  · rw [hnone] at mem_sent ⊢
    exact ⟨Nat.zero_le _, fun b hb => absurd (mem_sent hb) List.not_mem_nil⟩
  · rw [hsent] at mem_sent ⊢
    refine ⟨Nat.le_refl 1, fun c hc => ?_⟩
    obtain ⟨rfl⟩ : OutEvent.tx c = .tx b := List.mem_singleton.1 (mem_sent hc)
    exact hrule

/-! ### What an input event reports (R463, R602, R615) -/

theorem ended_eq_false_of_running {f : FsmState} : f.running = true → f.ended = false := by
  cases f <;> simp [FsmState.running, FsmState.downloading, FsmState.uploading, FsmState.ended]

/-- R463, R611, R612: the step emits one `END`, after whatever else it emits, and enters an ended state; it was in a session
that runs, or ran a START. -/
def endsSession (i : Instr) (s t : State) : Prop :=
  ∃ pre e, added s t = pre ++ [e] ∧ pre.filter isEnd = [] ∧ isEnd e = true ∧ t.fsm.ended = true ∧
    (s.fsm.running = true ∨ ∃ op name, i = .start op name)

@[simp] theorem filter_isEnd_fcloseWhen (o : Bool) : (fcloseWhen o).filter isEnd = [] := by
  cases o <;> rfl

/-- R611: the abort procedure ends the session with its `END`. -/
theorem endsSession_abort {i : Instr} {s u : State} {r : Reason} (hout : u.outputs = s.outputs)
    (hs : s.fsm.running = true ∨ ∃ op name, i = .start op name) : endsSession i s (abort r u) :=
  ⟨fcloseWhen u.fileOpen, .endSession .failed r u.errcode u.erridx, by simp [added, hout], filter_isEnd_fcloseWhen _, rfl,
    rfl, hs⟩

/-- R612: the success procedure ends the session with its `END`, after the datagram that led to it. -/
theorem endsSession_finish {i : Instr} {s u : State} {b : Bytes} (hout : u.outputs = s.outputs ++ [.tx b])
    (hs : s.fsm.running = true) : endsSession i s (finish u) :=
  ⟨.tx b :: fcloseWhen u.fileOpen, .endSession .success .none 0 0, by simp [added, hout],
    filter_isEnd_fcloseWhen u.fileOpen, rfl, rfl, .inl hs⟩

/-- R463, inverted: an input event ends the session with an `END`, or it emits none and enters no ended state. -/
theorem exec_ends {i : Instr} {s t : State} (ho : isOutput i = false) (h : exec i s = .next t) :
    endsSession i s t ∨ ((added s t).filter isEnd = [] ∧ (t.fsm.ended = true → s.fsm.ended = true)) := by
  cases exec_effect h with
  | startFailed op name => exact .inl (endsSession_abort rfl (.inr ⟨op, name, rfl⟩))
  | openFailed hf | appendFailed hf | readFailed _ _ hf => exact .inl (endsSession_abort rfl (.inl (by rw [hf]; rfl)))
  | outOfSequence d hi hf => exact .inl (endsSession_abort rfl (.inl (by rw [hf]; rfl)))
  | serverErrorTaken d code hi hf => exact .inl (endsSession_abort rfl (.inl (running_of_receiving hf)))
  | timedOut hf => exact .inl (endsSession_abort rfl (.inl (running_of_guarded hf)))
  | finalAcked hf => exact .inl (endsSession_finish rfl (by rw [hf]; rfl))
  | finalSent data hf => exact .inl (endsSession_finish rfl (by rw [hf]; rfl))
  | requestSent req hf hl hop => rcases hop with hop | hop <;> simp [added, isEnd, hop, FsmState.ended]
  | txEmitted => cases ho
  | emitted e hi => rw [ho] at hi; cases hi
  | _ => simp [added, isEnd, FsmState.ended]

/-- Settles O40: by `exec_ends`, an `END` is the one that ends its step, and its step left a running session or was a START. -/
theorem endReportedOnceAndLast : Obligations.EndReportedOnceAndLast := by
  intro i s t ho h
  obtain ⟨pre, e, hadded, hpre, he, ht, hs⟩ | ⟨hnone, hended⟩ := exec_ends ho h
  · have hone : (added s t).filter isEnd = [e] := by rw [hadded, List.filter_append, hpre]; simp [he]
    rw [hone]
    refine ⟨Nat.le_refl 1, fun _ => ⟨fun _ => ht, fun _ => rfl⟩, fun x hx hend => ⟨ht, ?_⟩, fun hse _ => ?_⟩
    · obtain rfl : x = e := List.mem_singleton.1 (hone ▸ List.mem_filter.2 ⟨hx, hend⟩)
      rw [hadded, List.getLast?_concat]
    · refine hs.resolve_left fun hrun => ?_
      rw [ended_eq_false_of_running hrun] at hse
      cases hse
  · have no_end : ∀ x ∈ added s t, isEnd x ≠ true := List.filter_eq_nil_iff.1 hnone
    rw [hnone]
    refine ⟨Nat.zero_le 1, fun hs => ⟨nofun, fun ht => ?_⟩, fun x hx hend => absurd hend (no_end x hx),
      fun _ ⟨x, hx, hend⟩ => absurd hend (no_end x hx)⟩
    rw [hended ht] at hs
    cases hs

end Sys2Proof.Machine

namespace Sys2Proof.Machine

open Slice0

/-! ### The two download waits (R501 to R505) -/

/-- R501: in a download wait a datagram, whichever row delivers it, is taken by the download's rule. -/
theorem exec_of_downloadWait {i : Instr} {d : Bytes} (hi : datagramOf i = some d) {s : State} (hw : downloadWait s.fsm) :
    exec i s = downloadReceive d s := by
  have hr : s.row.rx = .download := by
    unfold State.row
    rcases hw with hf | hf <;> rw [hf] <;> rfl
  simp only [exec_datagram hi, receive, hr]

/-- R504, R505: a datagram that is neither an Error nor the expected Data unit is consumed, and nothing more. -/
theorem exec_ignored {i : Instr} {d : Bytes} (hi : datagramOf i = some d) {s : State} (hw : downloadWait s.fsm)
    (he : ∀ code, decodeDatagram d ≠ .error code) (hd : ∀ off len, decodeDatagram d ≠ .data s.block off len) :
    exec i s = .next (consume d s) :=
  calc exec i s = exec (.rx d) s := by rw [exec_datagram hi, exec_datagram (i := .rx d) rfl]
    _ = .next (consume d s) :=
      (ignored_keeps_wait hw he fun p hp e => hd 4 p.length (by rw [e, decodeDatagram_data _ hp])).1

/-- R111: a datagram that fits `RXBUF` is kept whole, and its length is not saturated. -/
theorem consume_of_fits {d : Bytes} (h : d.length ≤ dgramMax) (s : State) :
    consume d s = { s with rxbuf := s.rxbuf.write 0 d, rxlen := BitVec.ofNat 16 d.length } := by
  have hmin : min d.length 0xFFFF = d.length := by unfold dgramMax at h; omega
  simp only [consume, hmin, List.take_of_length_le h]

/-- R503: what the acceptance of the Data unit of block `BLOCK` and payload `p` makes of `s`. -/
def acceptUnit (p : Bytes) (s : State) : State :=
  emit (.fappend p) { consume (dataBytes s.block p) s with last := finalUnit (4 + p.length), fsm := .dlWriting }

theorem exec_expectedData {s : State} {p : Bytes} (hw : downloadWait s.fsm) (hp : p.length ≤ payloadMax) :
    exec (.data s.block p) s = .next (acceptUnit p s) := by
  rw [exec_of_downloadWait (d := dataBytes s.block p) rfl hw]
  simp only [downloadReceive, decodeDatagram_data s.block hp, if_true, acceptData_eq hp, acceptUnit]

/-- R106, R503: a datagram below 516 bytes carries a payload below 512. -/
theorem finalUnit_of_payload (n : Nat) : finalUnit (4 + n) = decide (n < 512) :=
  decide_eq_decide.2 (by unfold dgramMax; omega)

/-- Settles O19: `acceptUnit`, with the datagram of at most 516 bytes that `consume` keeps whole. -/
theorem downloadAcceptsExpectedData : Obligations.DownloadAcceptsExpectedData := by
  intro s p hw hp
  rw [exec_expectedData hw hp, acceptUnit, finalUnit_of_payload, consume_of_fits (dataBytes_fits s.block hp),
    dataBytes_length]
  rfl

/-- Settles O20: the datagram's verdict carries its own block, which is not the expected one. -/
theorem downloadIgnoresMismatchedData : Obligations.DownloadIgnoresMismatchedData := by
  intro s block p hw hp hb
  have hv := decodeDatagram_data block hp
  have hexec : exec (.data block p) s = .next (consume (dataBytes block p) s) :=
    exec_ignored rfl hw (by simp [hv]) (by simp [hv, hb])
  rw [hexec, consume_of_fits (dataBytes_fits block hp), dataBytes_length]
  rfl

/-- Settles O21: none of these decodes to an Error or to a Data unit, so each is consumed alone. -/
theorem downloadIgnoresOtherDatagrams : Obligations.DownloadIgnoresOtherDatagrams := by
  intro s hw
  have unrecognized : ∀ {i : Instr} {d : Bytes}, datagramOf i = some d → decodeDatagram d = .unrecognized →
      exec i s = .next (consume d s) := fun hi hv => exec_ignored hi hw (by simp [hv]) (by simp [hv])
  refine ⟨fun block => ?_, fun f m i hi => ?_, fun d hd => ?_⟩
  · have hv := decodeDatagram_ack block
    have hexec : exec (.ack block) s = .next (consume (ackBytes block) s) :=
      exec_ignored rfl hw (by simp [hv]) (by simp [hv])
    rw [hexec, consume_of_fits (ackBytes_fits block)]
    rfl
  · rcases hi with rfl | rfl
    · exact unrecognized rfl (decodeDatagram_request (.inl rfl) f m)
    · exact unrecognized rfl (decodeDatagram_request (.inr rfl) f m)
  · simp only [Instr.wf, Bool.and_eq_true, decide_eq_true_eq] at hd
    obtain ⟨⟨hlen, hv⟩, -⟩ := hd
    have hmin : min d.length 0xFFFF = d.length := by unfold rxMax at hlen; omega
    rw [unrecognized rfl hv, consume, hmin]

/-- R611: what taking a server's Error emits, in the statements' form. -/
theorem serverError_eq_endOutputs (code : U16) (s : State) : serverError code s =
    { s with
        fsm := .aborted, reason := .serverError, errcode := code, erridx := erridx code, fileOpen := false,
        outputs := s.outputs ++ endOutputs s.fileOpen (.endSession .failed .serverError code (erridx code)) } := by
  rw [serverError_eq, List.append_assoc]
  rfl

/-- R107: with the invariant the file is open in the download states. -/
theorem EngineInv.fileOpen_of_downloading {s : State} (hs : EngineInv s) (h : s.fsm.downloading = true) :
    s.fileOpen = true := by
  rw [hs.fileOpen, h, Bool.true_or]

theorem downloading_of_downloadWait {f : FsmState} (h : downloadWait f) : f.downloading = true := by
  rcases h with rfl | rfl <;> rfl

/-- Settles O22: the datagram decodes to its code, whatever its message, and the rule is `serverError` after consumption. -/
theorem downloadErrorAborts : Obligations.DownloadErrorAborts := by
  intro s code m hw
  have hexec : exec (.error code m) s = .next (serverError code (consume (errorBytes code m) s)) := by
    simp only [exec_of_downloadWait (i := .error code m) rfl hw, downloadReceive, decodeDatagram_error]
  refine ⟨?_, fun hs => hs.fileOpen_of_downloading (downloading_of_downloadWait hw)⟩
  rw [hexec, serverError_eq_endOutputs, ← errorBytes_length code m]
  rfl

/-! ### The append's answer (R506, R507) -/

/-- R612: what the success procedure emits, in the statements' form. -/
theorem finish_eq_endOutputs (s : State) : finish s =
    { s with
        fsm := .done, reason := .none, fileOpen := false,
        outputs := s.outputs ++ endOutputs s.fileOpen (.endSession .success .none 0 0) } := by
  rw [finish_eq, List.append_assoc]
  rfl

/-- Settles O23: `appended_eq` for the append that succeeded, and the abort procedure for the one that failed. -/
theorem appendAnswerAcknowledges : Obligations.AppendAnswerAcknowledges := by
  intro s hf
  have hok : exec (.fappendResp true) s = appended s := by simp [exec, execFappendResp, hf]
  have hfail : exec (.fappendResp false) s = .next (abort .fileIo s) := by simp [exec, execFappendResp, hf]
  refine ⟨fun hl => ?_, fun hl => ?_, ?_, fun hs => ⟨hs.fileOpen_of_downloading (by rw [hf]; rfl),
    hs.noErrorRecorded (by rw [hf]; rfl)⟩⟩
  · rw [hok, appended_eq, if_neg (by simp [hl])]
    rfl
  · rw [hok, appended_eq, if_pos hl, finish_eq_endOutputs]
    rfl
  · rw [hfail, abort_eq_endOutputs]

/-! ### A whole download, unit by unit (R508) -/

/-- R451: a step takes the event offered first, where the state enables it. -/
theorem step_of_offer {s : State} {i : Instr} {rest : List Offer} (ho : s.offers = i.offer :: rest) (hw : i.wf = true)
    (he : enabled s.cfg s.fsm i = true) : step s = exec i { s with offers := rest } := by
  have hfetch : fetch s.cfg s.fsm s.offers = .event i rest :=
    ho ▸ fetch_of_enabled (decodeEncodeRoundTrip i hw) he rest
  simp only [step, hfetch]

theorem stepsTo_trans {m n : Nat} {s u t : State} (h : stepsTo m s u) (h' : stepsTo n u t) : stepsTo (m + n) s t := by
  induction m generalizing s with
  | zero =>
    obtain rfl : s = u := h
    rwa [Nat.zero_add]
  | succ m ih =>
    obtain ⟨v, hv, hu⟩ := h
    rw [Nat.succ_add]
    exact ⟨v, hv, ih hu⟩

/-- R503, R506: the expected Data unit and the answer to its append take two steps, through `DL_WRITING`. -/
theorem stepsTo_of_unit {s t : State} {p : Bytes} {rest : List Offer} (hw : downloadWait s.fsm)
    (hp : p.length ≤ payloadMax) (ho : s.offers = downloadOffers s.block [p] ++ rest)
    (ht : exec (.fappendResp true) { acceptUnit p s with offers := rest } = .next t) : stepsTo 2 s t := by
  have hrec : receiving s.fsm = true := by rcases hw with hf | hf <;> rw [hf] <;> rfl
  have hdata : step s = .next (acceptUnit p { s with offers := (Instr.fappendResp true).offer :: rest }) :=
    (step_of_offer ho (decide_eq_true hp) hrec).trans
      (exec_expectedData (s := { s with offers := (Instr.fappendResp true).offer :: rest }) hw hp)
  exact ⟨_, hdata, t, (step_of_offer rfl rfl rfl).trans ht, rfl⟩

/-- R508: the units `ps`, each appended and acknowledged, have led the download from `s` to `t`, with `rest` still offered. -/
structure UnitsTaken (ps : List Bytes) (rest : List Offer) (s t : State) : Prop where
  steps : stepsTo (2 * ps.length) s t
  fsm : t.fsm = if ps = [] then s.fsm else .dlAwaitNext
  fileOpen : t.fileOpen = s.fileOpen
  block : t.block = s.block + BitVec.ofNat 16 ps.length
  offers : t.offers = rest
  outputs : t.outputs = s.outputs ++ downloadOutputs s.block ps

theorem UnitsTaken.downloadWait {ps : List Bytes} {rest : List Offer} {s t : State} (h : UnitsTaken ps rest s t)
    (hs : downloadWait s.fsm) : downloadWait t.fsm := by
  rw [h.fsm]
  split
  · exact hs
  · exact .inr rfl

/-- R503, R506: one full unit is taken, and the engine waits for the next. -/
theorem fullUnit_taken {s : State} {p : Bytes} {rest : List Offer} (hs : downloadWait s.fsm) (hp : p.length = 512)
    (ho : s.offers = downloadOffers s.block [p] ++ rest) : ∃ t, UnitsTaken [p] rest s t := by
  have hlast : (acceptUnit p s).last = false := (finalUnit_of_payload p.length).trans (by simp [hp])
  have hnext := (appendAnswerAcknowledges { acceptUnit p s with offers := rest } rfl).1 hlast
  exact ⟨_, stepsTo_of_unit hs hp.le ho hnext, rfl, rfl, rfl, rfl, List.append_assoc _ [_] [_]⟩

/-- R105: the block after a unit and `ps` more, counted modulo 2^16. -/
theorem block_after_cons (b : U16) (p : Bytes) (ps : List Bytes) :
    b + 1 + BitVec.ofNat 16 ps.length = b + BitVec.ofNat 16 (p :: ps).length := by
  rw [List.length_cons, Nat.add_comm, BitVec.ofNat_add, ← BitVec.add_assoc]
  rfl

/-- Taking `p` and then `ps` is taking `p :: ps`. -/
theorem UnitsTaken.cons {p : Bytes} {ps : List Bytes} {mid rest : List Offer} {s u t : State}
    (h : UnitsTaken [p] mid s u) (h' : UnitsTaken ps rest u t) : UnitsTaken (p :: ps) rest s t where
  steps := by
    have := stepsTo_trans h.steps h'.steps
    rwa [← Nat.mul_add, List.length_singleton, Nat.add_comm 1] at this
  fsm := by simp [h'.fsm, h.fsm]
  fileOpen := h'.fileOpen.trans h.fileOpen
  block := by
    rw [h'.block, h.block]
    exact block_after_cons s.block p ps
  offers := h'.offers
  outputs := by
    rw [h'.outputs, h.outputs, h.block]
    simp [downloadOutputs]

/-- R508: full units, offered in order, are all taken, by induction on the units. -/
theorem fullUnits_taken {ps : List Bytes} {rest : List Offer} {s : State} (hs : downloadWait s.fsm)
    (hfull : ∀ p ∈ ps, p.length = 512) (ho : s.offers = downloadOffers s.block ps ++ rest) :
    ∃ t, UnitsTaken ps rest s t := by
  induction ps generalizing s with
  | nil => exact ⟨s, rfl, rfl, rfl, by simp, ho, by simp [downloadOutputs]⟩
  | cons p ps ih =>
    obtain ⟨hp, hps⟩ := List.forall_mem_cons.1 hfull
    obtain ⟨u, hu⟩ := fullUnit_taken (rest := downloadOffers (s.block + 1) ps ++ rest) hs hp ho
    obtain ⟨t, ht⟩ := ih (hu.downloadWait hs) hps (by rw [hu.offers, hu.block]; rfl)
    exact ⟨t, hu.cons ht⟩

/-- R503, R506, R612: the short unit is taken, and the session ends in success. -/
theorem finalUnit_taken {s : State} {p : Bytes} {rest : List Offer} (hs : downloadWait s.fsm) (hopen : s.fileOpen = true)
    (hp : p.length < 512) (ho : s.offers = downloadOffers s.block [p] ++ rest) :
    ∃ t, stepsTo 2 s t ∧ t.fsm = .done ∧ t.fileOpen = false ∧ t.reason = .none ∧ t.block = s.block + 1 ∧ t.offers = rest ∧
      t.outputs = s.outputs ++ downloadOutputs s.block [p] ++ [.fclose, .endSession .success .none 0 0] := by
  have hlast : (acceptUnit p s).last = true := (finalUnit_of_payload p.length).trans (decide_eq_true hp)
  obtain ⟨-, hdone, -⟩ := appendAnswerAcknowledges { acceptUnit p s with offers := rest } rfl
  exact ⟨_, stepsTo_of_unit hs hp.le ho (hdone hlast), rfl, rfl, rfl, rfl, rfl,
    by simp [acceptUnit, hopen, downloadOutputs, endOutputs, ackBytes]⟩

theorem downloadOffers_append (b : U16) (ps qs : List Bytes) : downloadOffers b (ps ++ qs) =
    downloadOffers b ps ++ downloadOffers (b + BitVec.ofNat 16 ps.length) qs := by
  induction ps generalizing b with
  | nil => simp [downloadOffers]
  | cons p ps ih =>
    rw [List.cons_append, downloadOffers, downloadOffers, ih, block_after_cons b p]
    rfl

theorem downloadOutputs_append (b : U16) (ps qs : List Bytes) : downloadOutputs b (ps ++ qs) =
    downloadOutputs b ps ++ downloadOutputs (b + BitVec.ofNat 16 ps.length) qs := by
  induction ps generalizing b with
  | nil => simp [downloadOutputs]
  | cons p ps ih =>
    rw [List.cons_append, downloadOutputs, downloadOutputs, ih, block_after_cons b p]
    rfl

/-- R508: the bytes that full units carry. -/
theorem length_flatten_of_full {ps : List Bytes} (h : ∀ p ∈ ps, p.length = 512) : ps.flatten.length = ps.length * 512 := by
  rw [List.length_flatten, List.sum_eq_card_nsmul _ 512 (by simpa using h), List.length_map, smul_eq_mul]

/-- Settles O59: the first full units, however many, are taken by `fullUnits_taken`, then the short unit by `finalUnit_taken`; the
count is the division of `S` by 512. -/
theorem downloadInOrderCompletes : Obligations.DownloadInOrderCompletes := by
  intro s full final rest hs hopen hfull hfinal _ ho
  have hsize : (full ++ [final]).flatten.length = full.length * 512 + final.length := by
    simp [length_flatten_of_full hfull]
  refine ⟨fun k hk hle => ?_, ?_, by omega, by omega⟩
  · have hsplit : full ++ [final] = full.take k ++ (full.drop k ++ [final]) := by
      rw [← List.append_assoc, List.take_append_drop]
    rw [hsplit, downloadOffers_append, List.append_assoc] at ho
    obtain ⟨u, hu⟩ := fullUnits_taken hs (fun p hp => hfull p (List.mem_of_mem_take hp)) ho
    have hne : full.take k ≠ [] := List.ne_nil_of_length_pos (by rw [List.length_take]; omega)
    have hsteps := hu.steps
    rw [List.length_take_of_le hle] at hsteps
    exact ⟨u, hsteps, hu.fsm.trans (if_neg hne), hu.outputs⟩
  · rw [downloadOffers_append, List.append_assoc] at ho
    obtain ⟨u, hu⟩ := fullUnits_taken hs hfull ho
    obtain ⟨t, hsteps, hdone, hclosed, hreason, hblock, hoffers, hout⟩ :=
      finalUnit_taken (hu.downloadWait hs) (hu.fileOpen.trans hopen) hfinal (by rw [hu.offers, hu.block])
    refine ⟨t, stepsTo_trans hu.steps hsteps, hdone, hclosed, hreason, ?_, hoffers, ?_⟩
    · rw [hblock, hu.block, BitVec.add_assoc, BitVec.ofNat_add]
      rfl
    · rw [hout, hu.outputs, hu.block, downloadOutputs_append, List.append_assoc s.outputs]

end Sys2Proof.Machine

namespace Sys2Proof.Machine

open Slice0

/-! ### The grant wait and the Ack wait (R551, R552, R555 to R557) -/

/-- R551: in the grant wait a datagram, whichever row delivers it, is taken by the grant's rule. -/
theorem exec_of_grantWait {i : Instr} {d : Bytes} (hi : datagramOf i = some d) {s : State} (hf : s.fsm = .ulAwaitGrant) :
    exec i s = grantReceive d s := by
  have hr : s.row.rx = .grant := by
    rw [State.row, hf]
    rfl
  simp only [exec_datagram hi, receive, hr]

/-- R555: while an Ack is awaited a datagram, whichever row delivers it, is taken by the Ack's rule. -/
theorem exec_of_ackWait {i : Instr} {d : Bytes} (hi : datagramOf i = some d) {s : State} (hf : s.fsm = .ulAwaitAck) :
    exec i s = ackReceive d s := by
  have hr : s.row.rx = .ack := by
    rw [State.row, hf]
    rfl
  simp only [exec_datagram hi, receive, hr]

/-- R211: the operand bounds of a row keep the datagram it delivers within what the channel can carry. -/
theorem datagram_length_le {i : Instr} {d : Bytes} (hw : i.wf = true) (hi : datagramOf i = some d) : d.length ≤ rxMax := by
  cases i with
  | rrq f m | wrq f m =>
    cases hi
    simp only [Instr.wf, Bool.and_eq_true, decide_eq_true_eq] at hw
    obtain ⟨-, hlen⟩ := hw
    rwa [requestBytes_length]
  | data block p =>
    cases hi
    exact (dataBytes_fits block (of_decide_eq_true hw)).trans (by decide)
  | ack block =>
    cases hi
    exact (ackBytes_fits block).trans (by decide)
  | error code t =>
    cases hi
    rw [errorBytes_length, Nat.add_comm]
    exact of_decide_eq_true hw
  | unrecognized d =>
    cases hi
    simp only [Instr.wf, Bool.and_eq_true, decide_eq_true_eq] at hw
    obtain ⟨⟨hlen, -⟩, -⟩ := hw
    exact hlen
  | rx d =>
    cases hi
    exact of_decide_eq_true hw
  | _ => cases hi

/-- R111, R211: the length of a datagram the channel can carry is not saturated. -/
theorem consume_of_carried {d : Bytes} (h : d.length ≤ rxMax) (s : State) :
    consume d s = { s with rxbuf := s.rxbuf.write 0 (d.take 516), rxlen := BitVec.ofNat 16 d.length } := by
  have hmin : min d.length 0xFFFF = d.length := by unfold rxMax at h; omega
  simp only [consume, hmin]

/-- R107: with the invariant the file is open in the upload states. -/
theorem EngineInv.fileOpen_of_uploading {s : State} (hs : EngineInv s) (h : s.fsm.uploading = true) :
    s.fileOpen = true := by
  rw [hs.fileOpen, h, Bool.or_true]

/-- R551, R556: what taking a server's Error makes of the state, consumption included, in the statements' form. -/
theorem serverError_consume (code : U16) (m : Bytes) (s : State) :
    serverError code (consume (errorBytes code m) s) =
      { s with
          fsm := .aborted, reason := .serverError, errcode := code, erridx := erridx code, fileOpen := false,
          rxbuf := s.rxbuf.write 0 (([0x00, 0x05] ++ put16 code ++ m).take 516),
          rxlen := BitVec.ofNat 16 (min (4 + m.length) 0xFFFF),
          outputs := s.outputs ++ endOutputs s.fileOpen (.endSession .failed .serverError code (erridx code)) } := by
  rw [serverError_eq_endOutputs, ← errorBytes_length code m]
  rfl

/-- Settles O24: `grantReceive_cases` tells an Error, whatever its message, from every other datagram. -/
theorem grantWaitTakesAnyDatagram : Obligations.GrantWaitTakesAnyDatagram := by
  intro s hf
  refine ⟨fun code m => ?_, fun i d hw hi he => ?_, fun hs => hs.fileOpen_of_uploading (by rw [hf]; rfl)⟩
  · have hexec : exec (.error code m) s = .next (serverError code (consume (errorBytes code m) s)) := by
      simp only [exec_of_grantWait (i := .error code m) rfl hf, grantReceive, decodeDatagram_error]
    rw [hexec, serverError_consume]
  · obtain ⟨code, hv, -⟩ | ⟨-, hgrant⟩ := grantReceive_cases d s
    · exact absurd hv (he code)
    · rw [exec_of_grantWait hi hf, hgrant, consume_of_carried (datagram_length_le hw hi)]
      rfl

/-- Settles O26: the Ack decodes to its own block, and its four bytes are kept whole. -/
theorem matchingAckContinues : Obligations.MatchingAckContinues := by
  intro s hf
  have hexec : exec (.ack s.block) s =
      .next (requestBlock { consume (ackBytes s.block) s with block := s.block + 1 }) := by
    simp only [exec_of_ackWait (i := .ack s.block) rfl hf, ackReceive, decodeDatagram_ack, if_true]
  rw [hexec, consume_of_fits (ackBytes_fits s.block)]
  rfl

/-- Settles O27: the datagram decodes to its code, whatever its message, and the rule is `serverError` after consumption. -/
theorem ackWaitErrorAborts : Obligations.AckWaitErrorAborts := by
  intro s code m hf
  have hexec : exec (.error code m) s = .next (serverError code (consume (errorBytes code m) s)) := by
    simp only [exec_of_ackWait (i := .error code m) rfl hf, ackReceive, decodeDatagram_error]
  exact ⟨by rw [hexec, serverError_consume], fun hs => hs.fileOpen_of_uploading (by rw [hf]; rfl)⟩

/-- Settles O28: of the outcomes in `ackReceive_cases`, the two others are excluded by what they say of the datagram. -/
theorem ackWaitOtherAborts : Obligations.AckWaitOtherAborts := by
  intro s i d hf hw hi hack herr
  refine ⟨?_, fun hs => ⟨hs.fileOpen_of_uploading (by rw [hf]; rfl), hs.noErrorRecorded (by rw [hf]; rfl)⟩⟩
  obtain ⟨code, hv, -⟩ | ⟨rfl, -⟩ | ⟨-, -, habort⟩ := ackReceive_cases d s
  · exact absurd hv (herr code)
  · exact absurd (decodeDatagram_ack s.block) hack
  · rw [exec_of_ackWait hi hf, habort, abort_eq_endOutputs, consume_of_carried (datagram_length_le hw hi)]

/-! ### The read's answer (R553, R554) -/

/-- R553: a read that succeeded within 512 bytes is sent. -/
theorem exec_readOk {s : State} {data : Bytes} (hf : s.fsm = .ulSending) (hl : data.length ≤ payloadMax) :
    exec (.freadResp true data) s = sendBlock data s := by
  have hr : s.row.freadResp = true := (row_freadResp s).trans (decide_eq_true hf)
  have hc : ¬ (!true || decide (payloadMax < data.length)) = true := by simpa using hl
  simp only [exec, execFreadResp, hr, if_neg hc]

/-- R554: a read that failed, or gave more than 512 bytes, aborts the session. -/
theorem exec_readFailed {s : State} {ok : Bool} {data : Bytes} (hf : s.fsm = .ulSending)
    (hbad : ok = false ∨ payloadMax < data.length) : exec (.freadResp ok data) s = .next (abort .fileIo s) := by
  have hr : s.row.freadResp = true := (row_freadResp s).trans (decide_eq_true hf)
  have hc : (!ok || decide (payloadMax < data.length)) = true := by simpa using hbad
  simp only [exec, execFreadResp, hr, if_pos hc]

/-- Settles O25: `sendBlock_eq` for the read that succeeded, full or short, and the abort procedure for the other. -/
theorem readAnswerSendsBlock : Obligations.ReadAnswerSendsBlock := by
  intro s data hf
  refine ⟨fun hl => ?_, fun hl => ?_, fun ok hbad => ?_, fun hs => ⟨hs.fileOpen_of_uploading (by rw [hf]; rfl),
    hs.noErrorRecorded (by rw [hf]; rfl)⟩⟩
  · rw [exec_readOk hf hl.le, sendBlock_eq hl.le, if_neg (Nat.not_lt.2 hl.ge), putTx, dataBytes_length, hl]
    rfl
  · rw [exec_readOk hf hl.le, sendBlock_eq hl.le, if_pos hl, finish_eq_endOutputs, putTx, dataBytes_length]
    rfl
  · rw [exec_readFailed hf hbad, abort_eq_endOutputs]

/-! ### The upload's lock step (R559) -/

/-- R553, R559: a read's answer that sends a Data unit leads to the wait for its Ack, or to the end. -/
theorem exec_freadResp_sends {ok : Bool} {data b : Bytes} {s t : State} (h : exec (.freadResp ok data) s = .next t)
    (hsent : (added s t).filter isTx = [.tx b]) : t.fsm = .ulAwaitAck ∨ t.fsm = .done := by
  cases exec_effect h with
  | unitSent => exact .inl rfl
  | finalSent => exact .inr (finish_fsm _)
  | noStep | readFailed => simp [added, isTx] at hsent
  | serverErrorTaken _ _ hi | accepted _ hi | ignored _ hi | granted _ hi | acked hi | outOfSequence _ hi => cases hi
  | emitted _ hi => cases hi

/-- Settles O41: by `exec_sends` a datagram is sent by one of three rules, none of them in `UL_AWAIT_ACK` and one of them, the
read's answer, in `UL_SENDING`. -/
theorem uploadKeepsLockStep : Obligations.UploadKeepsLockStep := by
  intro i s t ho h
  obtain hnone | ⟨b, hsent, hrule⟩ := exec_sends ho h
  · have no_tx : ∀ e ∈ added s t, isTx e ≠ true := List.filter_eq_nil_iff.1 hnone
    exact ⟨fun _ e he => Bool.eq_false_iff.2 (no_tx e he), fun _ ⟨e, he, htx⟩ => absurd htx (no_tx e he)⟩
  · obtain ⟨-, hopening, -⟩ | ⟨-, hwriting, -⟩ | ⟨data, rfl, hsending, -⟩ := hrule
    · simp [hopening]
    · simp [hwriting]
    · exact ⟨by simp [hsending], fun _ _ => exec_freadResp_sends h hsent⟩

/-! ### A whole upload, unit by unit (R558) -/

/-- R558: the units `ps`, each read, sent and acknowledged, have led the upload from `s` to `t`, with `rest` still offered. -/
structure UnitsAcked (ps : List Bytes) (rest : List Offer) (s t : State) : Prop where
  steps : stepsTo (2 * ps.length) s t
  fsm : t.fsm = .ulSending
  fileOpen : t.fileOpen = s.fileOpen
  block : t.block = s.block + BitVec.ofNat 16 ps.length
  offers : t.offers = rest
  outputs : t.outputs = s.outputs ++ uploadOutputs s.block ps

/-- R451: a read's answer that is offered first is taken in `UL_SENDING`. -/
theorem step_of_readOffer {s : State} {data : Bytes} {rest : List Offer} (hs : s.fsm = .ulSending)
    (ho : s.offers = (Instr.freadResp true data).offer :: rest) :
    step s = exec (.freadResp true data) { s with offers := rest } :=
  step_of_offer ho rfl ((enabled_freadResp s.cfg s.fsm true data).2 hs)

/-- R553, R555: one full unit is sent and its Ack taken, in two steps through `UL_AWAIT_ACK`. -/
theorem fullUnit_acked {s : State} {p : Bytes} {rest : List Offer} (hs : s.fsm = .ulSending) (hp : p.length = 512)
    (ho : s.offers = uploadOffers s.block [p] ++ rest) : ∃ t, UnitsAcked [p] rest s t := by
  obtain ⟨hsend, -⟩ := readAnswerSendsBlock { s with offers := (Instr.ack s.block).offer :: rest } p hs
  have hread := (step_of_readOffer hs ho).trans (hsend hp)
  exact ⟨_, ⟨_, hread, _, (step_of_offer rfl rfl rfl).trans (matchingAckContinues _ rfl), rfl⟩, rfl, rfl, rfl, rfl,
    List.append_assoc _ [_] [_]⟩

/-- Acknowledging `p` and then `ps` is acknowledging `p :: ps`. -/
theorem UnitsAcked.cons {p : Bytes} {ps : List Bytes} {mid rest : List Offer} {s u t : State}
    (h : UnitsAcked [p] mid s u) (h' : UnitsAcked ps rest u t) : UnitsAcked (p :: ps) rest s t where
  steps := by
    have := stepsTo_trans h.steps h'.steps
    rwa [← Nat.mul_add, List.length_singleton, Nat.add_comm 1] at this
  fsm := h'.fsm
  fileOpen := h'.fileOpen.trans h.fileOpen
  block := by
    rw [h'.block, h.block]
    exact block_after_cons s.block p ps
  offers := h'.offers
  outputs := by
    rw [h'.outputs, h.outputs, h.block]
    simp [uploadOutputs]

/-- R558: full units, offered in order with their Acks, are all acknowledged, by induction on the units. -/
theorem fullUnits_acked {ps : List Bytes} {rest : List Offer} {s : State} (hs : s.fsm = .ulSending)
    (hfull : ∀ p ∈ ps, p.length = 512) (ho : s.offers = uploadOffers s.block ps ++ rest) :
    ∃ t, UnitsAcked ps rest s t := by
  induction ps generalizing s with
  | nil => exact ⟨s, rfl, hs, rfl, by simp, ho, by simp [uploadOutputs]⟩
  | cons p ps ih =>
    obtain ⟨hp, hps⟩ := List.forall_mem_cons.1 hfull
    obtain ⟨u, hu⟩ := fullUnit_acked (rest := uploadOffers (s.block + 1) ps ++ rest) hs hp ho
    obtain ⟨t, ht⟩ := ih hu.fsm hps (by rw [hu.offers, hu.block]; rfl)
    exact ⟨t, hu.cons ht⟩

/-- R552: an Ack of any block, offered first in the grant wait, is the grant. -/
theorem grant_taken {s : State} {grant : U16} {rest : List Offer} (hs : s.fsm = .ulAwaitGrant)
    (ho : s.offers = (Instr.ack grant).offer :: rest) :
    ∃ t, step s = .next t ∧ t.fsm = .ulSending ∧ t.fileOpen = s.fileOpen ∧ t.block = s.block ∧ t.offers = rest ∧
      t.outputs = s.outputs ++ [.fread 512] := by
  have henabled : enabled s.cfg s.fsm (.ack grant) = true := by rw [hs]; rfl
  obtain ⟨-, hgrant, -⟩ := grantWaitTakesAnyDatagram { s with offers := rest } hs
  have hnext := hgrant (.ack grant) (ackBytes grant) rfl rfl (by simp [decodeDatagram_ack])
  exact ⟨_, (step_of_offer ho rfl henabled).trans hnext, rfl, rfl, rfl, rfl, rfl⟩

/-- R553, R612: the short unit is sent, and the session ends in success without its Ack. -/
theorem finalUnit_sent {s : State} {p : Bytes} {rest : List Offer} (hs : s.fsm = .ulSending) (hopen : s.fileOpen = true)
    (hp : p.length < 512) (ho : s.offers = (Instr.freadResp true p).offer :: rest) :
    ∃ t, step s = .next t ∧ t.fsm = .done ∧ t.fileOpen = false ∧ t.reason = .none ∧ t.block = s.block ∧ t.offers = rest ∧
      t.outputs = s.outputs ++ [.tx (dataBytes s.block p), .fclose, .endSession .success .none 0 0] := by
  obtain ⟨-, hdone, -⟩ := readAnswerSendsBlock { s with offers := rest } p hs
  exact ⟨_, (step_of_readOffer hs ho).trans (hdone hp), rfl, rfl, rfl, rfl, rfl,
    by simp [hopen, endOutputs, dataBytes]⟩

/-- Settles O60: the grant, the full units by `fullUnits_acked`, then the short unit by `finalUnit_sent`. -/
theorem uploadInOrderCompletes : Obligations.UploadInOrderCompletes := by
  intro s grant full final rest hs hopen hfull hfinal _ ho
  obtain ⟨v, hgrant, hvfsm, hvopen, hvblock, hvoffers, hvout⟩ := grant_taken hs ho
  obtain ⟨u, hu⟩ := fullUnits_acked (rest := (Instr.freadResp true final).offer :: rest) hvfsm hfull
    (by rw [hvoffers, hvblock]; rfl)
  obtain ⟨t, hfinish, hdone, hclosed, hreason, hblock, hoffers, hout⟩ :=
    finalUnit_sent hu.fsm (hu.fileOpen.trans (hvopen.trans hopen)) hfinal hu.offers
  have hsteps : stepsTo (2 * full.length + 2) s t := ⟨v, hgrant, stepsTo_trans hu.steps ⟨t, hfinish, rfl⟩⟩
  have hublock : u.block = s.block + BitVec.ofNat 16 full.length := by rw [hu.block, hvblock]
  refine ⟨t, hsteps, hdone, hclosed, hreason, hblock.trans hublock, hoffers, ?_⟩
  rw [hout, hu.outputs, hublock, hvout, hvblock]

end Sys2Proof.Machine

namespace Sys2Proof.Machine

open Slice0

/-! ### What a step can answer (R451, R615, R618) -/

/-- Where an event is found behind an offer kept in front, it was found among the offers behind that one. -/
theorem Fetched.event_of_keep {o : Offer} {r : Fetched} {i : Instr} {rest : List Offer} (h : r.keep o = .event i rest) :
    ∃ left, r = .event i left := by
  cases r with
  | event j left =>
    cases h
    exact ⟨left, rfl⟩
  | idle | reset | undecodable => cases h

/-- R451: the event a step takes is what one of the offers decodes to. -/
theorem decode_of_fetch {cfg : Config} {f : FsmState} {offers rest : List Offer} {i : Instr}
    (h : fetch cfg f offers = .event i rest) : ∃ p bytes, .event p bytes ∈ offers ∧ decode p bytes = .ok i := by
  induction offers generalizing rest with
  | nil => cases h
  | cons o behind ih =>
    cases o with
    | reset => cases h
    | event p bytes =>
      cases hd : decode p bytes with
      | error e =>
        rw [fetch_of_undecodable hd] at h
        cases h
      | ok j =>
        cases he : enabled cfg f j with
        | true =>
          rw [fetch_of_enabled hd he] at h
          cases h
          exact ⟨p, bytes, List.mem_cons_self, hd⟩
        | false =>
          rw [fetch_of_not_enabled hd he] at h
          obtain ⟨left, hleft⟩ := Fetched.event_of_keep h
          obtain ⟨q, c, hmem, hq⟩ := ih hleft
          exact ⟨q, c, List.mem_cons_of_mem _ hmem, hq⟩

/-- R311: the event a step takes is well-formed, since the decoder checked its operands. -/
theorem wf_of_fetch {cfg : Config} {f : FsmState} {offers rest : List Offer} {i : Instr}
    (h : fetch cfg f offers = .event i rest) : i.wf = true := by
  obtain ⟨_, _, -, hd⟩ := decode_of_fetch h
  exact (decode_eq_ok_iff.1 hd).2

/-- Settles O49: a step holds its state, resets, refuses bytes that are no event, or runs one instruction; that one is
well-formed (`wf_of_fetch`), so O48 gives its next state and the invariant there. -/
theorem stepAnswersSafely : Obligations.StepAnswersSafely := by
  intro s hs
  unfold step
  split
  · exact hs
  · exact engineInv_resetEngine _
  · next e _ => exact ⟨e, rfl⟩
  · next i rest hf =>
    obtain ⟨t, ht, hinv⟩ := wellFormedInstructionsComplete i _ (wf_of_fetch hf) (hs.withOffers rest)
    rw [ht]
    exact hinv

/-- R618: where every offer is passed over, the search finds nothing. -/
theorem fetch_of_all_passedOver {cfg : Config} {f : FsmState} {offers : List Offer}
    (h : ∀ o ∈ offers, passedOver cfg f o) : fetch cfg f offers = .idle := by
  induction offers with
  | nil => rfl
  | cons o behind ih =>
    obtain ⟨⟨p, bytes, i, rfl, hd, he⟩, hbehind⟩ := List.forall_mem_cons.1 h
    rw [fetch_of_not_enabled hd he, ih hbehind]
    rfl

/-- Settles O6: the search finds nothing, and the step then answers the state it was given. -/
theorem stepHoldsWithNothingEnabled : Obligations.StepHoldsWithNothingEnabled := by
  intro s h
  simp only [step, fetch_of_all_passedOver h]

/-! ### TIMEOUT (R603) -/

/-- R114: the guarded waits, as the statement on TIMEOUT lists them. -/
theorem guarded_iff_wait {cfg : Config} {f : FsmState} :
    guarded cfg f = true ↔ downloadWait f ∨ f = .ulAwaitAck ∨ (f = .ulAwaitGrant ∧ cfg.grantGuarded = true) := by
  rw [guarded_iff, downloadWait, or_assoc]

theorem exec_timeout_of_guarded {s : State} (h : guarded s.cfg s.fsm = true) :
    exec .timeout s = .next (abort .timeout s) := by
  simp only [exec, execTimeout, row_timeout, h]

/-- R107: with the invariant the file is open in every guarded wait, since each is a wait of a transfer. -/
theorem EngineInv.fileOpen_of_guarded {s : State} (hs : EngineInv s) (h : guarded s.cfg s.fsm = true) :
    s.fileOpen = true := by
  obtain hw | hack | ⟨hgrant, -⟩ := guarded_iff_wait.1 h
  · exact hs.fileOpen_of_downloading (downloading_of_downloadWait hw)
  · exact hs.fileOpen_of_uploading (by rw [hack]; rfl)
  · exact hs.fileOpen_of_uploading (by rw [hgrant]; rfl)

/-- Settles O29: `guarded` tells the waits where TIMEOUT is enabled; there it is the abort procedure, and elsewhere it has no
step. -/
theorem timeoutAbortsGuardedWait : Obligations.TimeoutAbortsGuardedWait := by
  intro s
  rw [← guarded_iff_wait]
  refine ⟨fun hg => ⟨?_, fun hs => ⟨hs.fileOpen_of_guarded hg, hs.noErrorRecorded (running_of_guarded hg)⟩⟩, fun hg => ?_⟩
  · rw [exec_timeout_of_guarded hg, abort_eq_endOutputs]
  · exact exec_of_not_enabled ((enabled_timeout s.cfg s.fsm).trans (Bool.eq_false_iff.2 hg))

end Sys2Proof.Machine

namespace Sys2Proof.Machine

/-! ### The reset input (R701, R702) -/

/-- R701: a reset offered first is taken in any state, and no rule runs. -/
theorem step_of_resetOffer {s : State} {rest : List Offer} (h : s.offers = .reset :: rest) :
    step s = .next (resetEngine { s with offers := rest }) := by
  simp only [step, h, fetch]

/-- R116: reset leaves every store unwritten. -/
@[simp] theorem resetEngine_store (s : State) (sp : Space) : (resetEngine s).store sp = [] := by
  cases sp <;> simp

/-- R116: after a reset every byte of every store is that reset's draw. -/
theorem byteAt_resetEngine (s : State) (sp : Space) (a : Nat) :
    (resetEngine s).byteAt sp a = Config.freeByte (resetEngine s).draws sp a :=
  byteAt_unwritten (by rw [resetEngine_store]; rfl)

/-- Settles O2: the step answers `resetEngine` of the state with that offer removed (`step_of_resetOffer`). Its registers are
read off the definition, and its stores hold nothing but draws. -/
theorem resetInputAbandonsSession : Obligations.ResetInputAbandonsSession := by
  intro s rest h
  have hbytes := byteAt_resetEngine { s with offers := rest }
  exact ⟨_, step_of_resetOffer h, rfl, rfl, rfl, rfl, rfl, rfl, rfl, rfl, rfl, rfl, rfl, hbytes, rfl, rfl, rfl⟩

end Sys2Proof.Machine
